-- ==== Sys2Proof/Word.lean ====
section
/-! DEFINITION. The words and matrices of the block (spec/00_scope.md R8, R14, R15, R18).

A sequence of fixed length `n` is a `BitVec n`; its element `j`, index 0 leftmost, is `s.getMsbD j`,
so the packed value of R17 is the vector's own value and no packing step can go wrong. -/

namespace Sys2Proof

/-- An operand sequence of any length, element 0 first (R14, R81). -/
abbrev BitSeq := List Bool

/-- A `K = 6` bit data word (R8, R20). -/
abbrev DataWord := BitVec 6

/-- The `N = 10` Hamming-protected bits, or one row of `G` or `H` (R8, R20). -/
abbrev Row := BitVec 10

/-- A `T = 11` bit codeword or received word (R8, R20). -/
abbrev Codeword := BitVec 11

/-- An `R = 4` bit syndrome, element `i` from check row `i` (R20). -/
abbrev Syndrome := BitVec 4

/-- A `k × n` bit matrix, row 0 first (R15). -/
abbrev Mat (k n : Nat) := Vector (BitVec n) k

/-- The command word `CMD`, `CMD_W = 24` bits (R11, R80). -/
abbrev CmdWord := BitVec 24

/-- The response word `RSP`, `RSP_W = 16` bits (R11, R87). -/
abbrev RspWord := BitVec 16

end Sys2Proof
end

