-- ==== Sys2Proof/Machine/Bits.lean ====
section
/-! DEFINITION. GF(2) sequences: elements, sums, products, flips and packing (spec/00_scope.md R14 to R18). -/

namespace Sys2Proof

/-- The sequence of length `n` whose element `j` is `f j` (R14). -/
def ofElems : (n : Nat) → (Nat → Bool) → BitVec n
  | 0, _ => 0#0
  | n + 1, f => BitVec.cons (f 0) (ofElems n fun j => f (j + 1))

/-- The XOR of `f 0, …, f (n − 1)`; 0 for no element (R16). -/
def xorBelow (f : Nat → Bool) : Nat → Bool
  | 0 => false
  | n + 1 => xorBelow f n ^^ f n

/-- `xsum(s)`: the XOR of all elements of `s` (R16). -/
def xsum {n : Nat} (s : BitVec n) : Bool :=
  xorBelow s.getMsbD n

/-- `dot(s, t)`: the sum of bitwise ANDs, mod 2 (R16). -/
def dot {n : Nat} (s t : BitVec n) : Bool :=
  xsum (s &&& t)

/-- `s[0..m−1]`, the first `m` elements (R14). -/
def firstBits {n : Nat} (m : Nat) (s : BitVec n) : BitVec m :=
  ofElems m s.getMsbD

/-- Flip position `p`: XOR element `p` with 1 (R21). -/
def flipAt {n : Nat} (p : Nat) (s : BitVec n) : BitVec n :=
  ofElems n fun j => s.getMsbD j ^^ (j == p)

/-- `pack(s)`: the unsigned integer with `s[0]` as its most significant bit (R17). -/
def pack {n : Nat} (s : BitVec n) : Nat :=
  s.toNat

/-- An operand sequence as a word of `n` elements, element 0 first; used where its length is `n` (R18), and
for the payload field, where what lies beyond the sequence is 0 (R81). -/
def seqWord (n : Nat) (s : BitSeq) : BitVec n :=
  ofElems n fun i => s.getD i false

/-- The elements of a word as a sequence, element 0 first (R14). -/
def elems {n : Nat} (s : BitVec n) : BitSeq :=
  (List.range n).map s.getMsbD

end Sys2Proof
end

