-- ==== Sys2Proof/Machine/Matrix.lean ====
section
/-! DEFINITION. Matrices over GF(2): rows, entries, columns, products (spec/00_scope.md R15, R16). -/

namespace Sys2Proof

/-- `M[i]`, row `i` (R15). -/
def rowOf {k n : Nat} (M : Mat k n) (i : Nat) : BitVec n :=
  if h : i < k then M[i] else 0#n

/-- `M[i][j]`, the bit in row `i`, column `j` (R15). -/
def entry {k n : Nat} (M : Mat k n) (i j : Nat) : Bool :=
  (rowOf M i).getMsbD j

/-- `col(M, j)`, column `j` read top to bottom (R15). -/
def col {k n : Nat} (M : Mat k n) (j : Nat) : BitVec k :=
  ofElems k fun i => entry M i j

/-- `M[i] <- v`, all other rows unchanged (R19). -/
def setRow {k n : Nat} (M : Mat k n) (i : Nat) (v : BitVec n) : Mat k n :=
  M.setIfInBounds i v

/-- The matrix whose row `i` is `f i`. -/
def ofRows (k : Nat) {n : Nat} (f : Nat → BitVec n) : Mat k n :=
  Vector.ofFn fun i : Fin k => f i

/-- `I_k` (R15). -/
def identity (k : Nat) : Mat k k :=
  ofRows k fun i => ofElems k fun j => i == j

/-- `x · M`: element `j` is `dot(x, col(M, j))` (R16, R142). -/
def vecMul {k n : Nat} (x : BitVec k) (M : Mat k n) : BitVec n :=
  ofElems n fun j => dot x (col M j)

/-- `M · wᵗ`: element `i` is `dot(M[i], w)` (R16, R154). -/
def mulVec {k n : Nat} (M : Mat k n) (w : BitVec n) : BitVec k :=
  ofElems k fun i => dot (rowOf M i) w

/-- `A · B` over GF(2) (R119). -/
def matMul {k m n : Nat} (A : Mat k m) (B : Mat m n) : Mat k n :=
  ofRows k fun i => vecMul (rowOf A i) B

/-- The leftmost `c` columns of `M` (R118). -/
def leftBlock {k n : Nat} (c : Nat) (M : Mat k n) : Mat k c :=
  ofRows k fun i => firstBits c (rowOf M i)

end Sys2Proof
end

