-- ==== Sys2Proof/Machine/SynTable.lean ====
section
/-! DEFINITION. The syndrome lookup ROM and the Syndrome Table Builder (spec/10_state.md R34,
spec/40_construction.md R123, R124). -/

namespace Sys2Proof.Machine

/-- One entry of a syndrome table: `hit` and `pos`, an unsigned integer of `p` bits; 4 in the block (R34). -/
structure SynEntry (p : Nat) where
  hit : Bool
  pos : BitVec p
  deriving DecidableEq, Repr

/-- A table of `2^r` entries addressed by `pack` of a syndrome (R34, R123). -/
abbrev SynTable (r p : Nat) := Vector (SynEntry p) (2 ^ r)

/-- A miss, whose `pos` is 0 by the spec's choice (R34). -/
def SynEntry.miss (p : Nat) : SynEntry p :=
  { hit := false, pos := 0 }

/-- `SYN[S]`: the entry at address `pack(S)` (R157). -/
def lookup {r p : Nat} (T : SynTable r p) (S : BitVec r) : SynEntry p :=
  T[pack S]'S.isLt

/-- `BUILD` before any column: all entries miss (R123). -/
def emptyTable (r p : Nat) : SynTable r p :=
  Vector.replicate (2 ^ r) (SynEntry.miss p)

/-- Enter column `c` of `H`; `none` is the column fault: it is zero, or equal to an earlier column (R123, R124). -/
def enterColumn {r n p : Nat} (H : Mat r n) (T : SynTable r p) (c : Fin n) : Option (SynTable r p) :=
  if pack (col H c) = 0 then none
  else if (lookup T (col H c)).hit then none
  else some (T.setIfInBounds (pack (col H c)) { hit := true, pos := BitVec.ofNat p c.val })

/-- `BUILD` of entries whose `pos` has `p` bits: columns in increasing order; `none` is the fatal fault `C_COLUMNS` (R123). -/
def buildTable (p : Nat) {r n : Nat} (H : Mat r n) : Option (SynTable r p) :=
  (List.finRange n).foldlM (enterColumn H) (emptyTable r p)

end Sys2Proof.Machine
end

