-- ==== Sys2Proof/Machine/Flags.lean ====
section
/-! DEFINITION. The three conditions inside one `DEC` step; they are held nowhere
(spec/10_state.md R38, spec/42_decoder.md R152 to R157). -/

namespace Sys2Proof.Machine

/-- `hamming_part`, elements 0 to 9 of the received word (R152). -/
def hammingPart (s : Codeword) : Row :=
  firstBits 10 s

/-- `received_parity`, element 10 of the received word (R152). -/
def receivedParity (s : Codeword) : Bool :=
  s.getMsbD 10

/-- `parity_error`: the XOR of the protected bits differs from the received parity (R153). -/
def parityError (s : Codeword) : Bool :=
  xsum (hammingPart s) != receivedParity s

/-- The syndrome `S`: `S[i] = dot(H[i], hp)` (R154). -/
def syndrome (H : Mat 4 10) (hp : Row) : Syndrome :=
  mulVec H hp

/-- `syn_zero`: all four elements of `S` are 0 (R155). -/
def synZero (S : Syndrome) : Bool :=
  S == 0#4

/-- `(hit, pos) = SYN[pack(S)]` (R157). -/
def synLookup (T : SynTable 4 4) (S : Syndrome) : SynEntry 4 :=
  lookup T S

end Sys2Proof.Machine
end

