-- ==== Sys2Proof/Syntax.lean ====
section
/-! DEFINITION. The instructions, one constructor per row of spec/opcode_table.json, and the three ways
one is selected (spec/30_encoding.md R79, R80, R86). -/

namespace Sys2Proof

/-- Every row of the opcode table.  The first nine are commands of the host (R84, R85); `construct` is the
reset step and the last three are its parts, which no command word selects (R86). -/
inductive Instr where
  /-- `NOP` (R170). -/
  | nop
  /-- `ENC s` (R140). -/
  | enc (s : BitSeq)
  /-- `DEC s` (R150). -/
  | dec (s : BitSeq)
  /-- `RDG idx` (R172). -/
  | rdg (idx : Fin 16)
  /-- `RDH idx` (R173). -/
  | rdh (idx : Fin 16)
  /-- `RDS idx` (R174). -/
  | rds (idx : Fin 16)
  /-- `STAT` (R171). -/
  | stat
  /-- The reserved operation code 7 (R85). -/
  | reserved7
  /-- The reserved operation codes 8 to 15; `low` is the code's low three bits (R85). -/
  | reserved8to15 (low : Fin 8)
  /-- `CONSTRUCT`, the reset step (R126, R210). -/
  | construct
  /-- `REDUCE`, `cstep = 0` of the reset step (R113). -/
  | reduce
  /-- `DERIVE`, `cstep = 1` of the reset step (R121). -/
  | derive
  /-- `BUILD`, `cstep = 2` of the reset step (R123). -/
  | build
  deriving DecidableEq, Repr

/-- The reset step's hidden two-bit step counter (R41, R86). -/
inductive CStep where
  | reduce
  | derive
  | build
  | done
  deriving DecidableEq, Repr

/-- What the host does at the block's interface: it asserts reset or presents one command word (R12, R210). -/
inductive HostEvent where
  | reset
  | command (cmd : CmdWord)
  deriving DecidableEq, Repr

/-- How a row of the opcode table is selected: by a command word (format `C`), by the reset input
(format `RST`), or by the reset step's own counter (format `S`) (R80, R86). -/
inductive Selection where
  | command (cmd : CmdWord)
  | rst (level : Bool)
  | unit (cstep : BitVec 2)
  deriving DecidableEq, Repr

/-- Why a selection names no instruction. -/
inductive DecodeError where
  /-- `rst = 0` selects nothing (R210). -/
  | resetNotAsserted
  /-- `cstep = 3` is "done" and selects no unit (R41). -/
  | noUnitSelected
  deriving DecidableEq, Repr

end Sys2Proof
end

