-- ==== Sys2Proof/WellFormed.lean ====
section
/-! DEFINITION. Which instruction terms the interface can present (spec/30_encoding.md R81, D9, U12). -/

namespace Sys2Proof

/-- The longest operand sequence the command port can carry, `LEN_MAX` (R11). -/
def lenMax : Nat := 15

/-- An operand sequence has at most `LEN_MAX` elements (R81); every other field is bounded by its type. -/
def Instr.wellFormed : Instr → Bool
  | .nop => true
  | .enc s => decide (s.length ≤ lenMax)
  | .dec s => decide (s.length ≤ lenMax)
  | .rdg _ => true
  | .rdh _ => true
  | .rds _ => true
  | .stat => true
  | .reserved7 => true
  | .reserved8to15 _ => true
  | .construct => true
  | .reduce => true
  | .derive => true
  | .build => true

/-- The host can present this instruction as a command word; the other four rows are the reset step and its
parts (R86). -/
def Instr.isCommand : Instr → Bool
  | .nop => true
  | .enc _ => true
  | .dec _ => true
  | .rdg _ => true
  | .rdh _ => true
  | .rds _ => true
  | .stat => true
  | .reserved7 => true
  | .reserved8to15 _ => true
  | .construct => false
  | .reduce => false
  | .derive => false
  | .build => false

end Sys2Proof
end

