-- ==== Sys2Proof/Machine/Operands.lean ====
section
/-! DEFINITION. Operand forms: the operand sequence of `ENC` and `DEC` and the entry index of the read
commands (spec/30_encoding.md R81, R82, spec/41_encoder.md R141, spec/42_decoder.md R151). -/

namespace Sys2Proof.Machine

/-- The command port can carry this sequence (R81, U12). -/
def presentable (s : BitSeq) : Bool :=
  decide (s.length ≤ lenMax)

/-- The operand of `ENC` has exactly `data_bits` elements (R141). -/
def encLengthOk (s : BitSeq) : Bool :=
  s.length == 6

/-- The operand of `DEC` has exactly `total_bits` elements (R151). -/
def decLengthOk (s : BitSeq) : Bool :=
  s.length == 11

/-- The data word of `ENC` (R140). -/
def dataOperand (s : BitSeq) : DataWord :=
  seqWord 6 s

/-- The received word of `DEC` (R150). -/
def receivedOperand (s : BitSeq) : Codeword :=
  seqWord 11 s

/-- `idx` names a row of `G` (R61, R185). -/
def namesRowOfG (idx : Fin 16) : Bool :=
  decide (idx.val ≤ 5)

/-- `idx` names a row of `H` (R61, R185). -/
def namesRowOfH (idx : Fin 16) : Bool :=
  decide (idx.val ≤ 3)

/-- Every `idx` names an entry of `SYNROM` (R61): the syndrome it packs. -/
def synAddress (idx : Fin 16) : Syndrome :=
  BitVec.ofFin idx

end Sys2Proof.Machine
end

