-- ==== Sys2Proof/Decode.lean ====
section
/-! DEFINITION. The decoder, total on every word, and after it the encoder, both written from
spec/30_encoding.md R80 to R86. -/

namespace Sys2Proof

/-- `CMD[23:20]` (R80). -/
def opField (w : CmdWord) : BitVec 4 :=
  w.extractLsb' 20 4

/-- `CMD[19:16]` (R80). -/
def argField (w : CmdWord) : BitVec 4 :=
  w.extractLsb' 16 4

/-- The operand sequence: `s[i] = CMD[15 − i]` for `0 <= i < len`, `len = CMD[19:16]` (R81). -/
def operandSeq (w : CmdWord) : BitSeq :=
  (List.range (argField w).toNat).map fun i => w.getLsbD (15 - i)

/-- The entry address `idx = CMD[19:16]` (R82). -/
def indexField (w : CmdWord) : Fin 16 :=
  (argField w).toFin

/-- The opcode map, complete and total on all 2^24 words (R84, R85). -/
def decodeCommand (w : CmdWord) : Instr :=
  match (opField w).toNat with
  | 0 => .nop
  | 1 => .enc (operandSeq w)
  | 2 => .dec (operandSeq w)
  | 3 => .rdg (indexField w)
  | 4 => .rdh (indexField w)
  | 5 => .rds (indexField w)
  | 6 => .stat
  | 7 => .reserved7
  | op => .reserved8to15 (Fin.ofNat 8 op)

/-- The instruction a host event selects: `rst = 1` selects `CONSTRUCT`, a command word its row (R86, R210). -/
def decodeEvent : HostEvent → Instr
  | .reset => .construct
  | .command w => decodeCommand w

/-- The counter value of a unit of the reset step (R41, R86). -/
def CStep.code : CStep → BitVec 2
  | .reduce => 0
  | .derive => 1
  | .build => 2
  | .done => 3

/-- The unit with this counter value (R41, R86). -/
def CStep.ofCode (c : BitVec 2) : CStep :=
  match c.toNat with
  | 0 => .reduce
  | 1 => .derive
  | 2 => .build
  | _ => .done

/-- The decoder of the whole opcode table, by the way each row is selected (R84 to R86). -/
def decode : Selection → Except DecodeError Instr
  | .command w => .ok (decodeCommand w)
  | .rst level => if level then .ok .construct else .error .resetNotAsserted
  | .unit c =>
    match CStep.ofCode c with
    | .reduce => .ok .reduce
    | .derive => .ok .derive
    | .build => .ok .build
    | .done => .error .noUnitSelected

/-- A command word from its three fields (R80). -/
def commandWord (op arg : BitVec 4) (payload : BitVec 16) : CmdWord :=
  (op ++ arg ++ payload).cast rfl

/-- The encoder: the selection of each instruction, every field it does not use 0 (R80 to R86). -/
def encode : Instr → Selection
  | .nop => .command (commandWord 0 0 0)
  | .enc s => .command (commandWord 1 (BitVec.ofNat 4 s.length) (seqWord 16 s))
  | .dec s => .command (commandWord 2 (BitVec.ofNat 4 s.length) (seqWord 16 s))
  | .rdg idx => .command (commandWord 3 (BitVec.ofFin idx) 0)
  | .rdh idx => .command (commandWord 4 (BitVec.ofFin idx) 0)
  | .rds idx => .command (commandWord 5 (BitVec.ofFin idx) 0)
  | .stat => .command (commandWord 6 0 0)
  | .reserved7 => .command (commandWord 7 0 0)
  | .reserved8to15 low => .command (commandWord (BitVec.ofNat 4 (8 + low.val)) 0 0)
  | .construct => .rst true
  | .reduce => .unit 0
  | .derive => .unit 1
  | .build => .unit 2

/-- The selection behind a word numbered as spec/opcode_table.json numbers it: 24 bits for format `C`, 1 for
`RST`, 2 for `S`.  With the last two rounded up to one byte their patterns overlap at 1 (`rst = 1` and
`cstep = 01`); the host's own input `rst` is then meant.  Log entry 9. -/
def selectionOfTableWord (nbits w : Nat) : Option Selection :=
  match nbits with
  | 24 => some (.command (BitVec.ofNat 24 w))
  | 1 => some (.rst (w % 2 == 1))
  | 2 => some (.unit (BitVec.ofNat 2 w))
  | 8 =>
    match w with
    | 0 => some (.unit 0)
    | 1 => some (.rst true)
    | 2 => some (.unit 2)
    | _ => none
  | _ => none

/-- The instruction of a word numbered as the opcode table numbers it. -/
def decodeTableWord (nbits w : Nat) : Option Instr :=
  match selectionOfTableWord nbits w with
  | some sel => (decode sel).toOption
  | none => none

end Sys2Proof
end

