-- ==== Sys2Proof/Config.lean ====
section
/-! DEFINITION. The parameter of the block and the free values (spec/00_scope.md R9, spec/10_state.md R46). -/

namespace Sys2Proof

/-- `SEED_G`, the fixed built-in seed matrix whose 60 bits no source gives (R9, decision D2 OPEN).
No body: nothing in Lean knows a bit of it, so what is proved holds for every seed.  Log entry 1. -/
opaque Config.seedG : Mat 6 10

/-- What `G` holds after a failed construction: unspecified, a function of the seed alone (R45, R46).
A free value; log entry 2. -/
opaque Config.failedG : Mat 6 10 → Mat 6 10

/-- What `H` holds after a failed construction: unspecified (R45, R46).  A free value; log entry 2. -/
opaque Config.failedH : Mat 6 10 → Mat 4 10

/-- What `SYN` holds, as (hit, pos) pairs of 1 and 4 bits, after a failed construction: unspecified (R45, R46).
A free value; log entry 2. -/
opaque Config.failedSyn : Mat 6 10 → Vector (Bool × BitVec 4) 16

/-- The code `cfault` holds inside a reset step, before the step writes it: R126 writes only `ready <- 0` first.
A free value among the three codes R35 names; log entry 15. -/
opaque Config.pendingCfault : Mat 6 10 → Fin 3

end Sys2Proof
end

