-- ==== Sys2Proof/Machine/Block.lean ====
section
/-! DEFINITION. The five elements of the architectural state, and the error, status and response types
(spec/10_state.md R30 to R35, spec/30_encoding.md R79, R88, R89). -/

namespace Sys2Proof.Machine

/-- The `cfault` field of `STAT`; code 3 is never produced and has no constructor (R35, U11). -/
inductive CFault where
  /-- `C_NONE`: no construction fault. -/
  | cNone
  /-- `C_RANK`: the Reducer found no pivot for some column (R116). -/
  | cRank
  /-- `C_COLUMNS`: the columns of `H` are not pairwise distinct and nonzero (R124). -/
  | cColumns
  deriving DecidableEq, Repr

/-- The command errors (R89, R182); codes 5 to 7 are never produced and have no constructor (U11). -/
inductive CmdError where
  | eLength
  | eIllegal
  | eNotReady
  | eIndex
  deriving DecidableEq, Repr

/-- The two decode statuses under which the data word is present (R79, R88). -/
inductive DataStatus where
  | valid
  | corrected
  deriving DecidableEq, Repr

/-- The response to a command, the tagged union of R79.  `entry` carries the 4-bit `pos` of the response word
(R88); R79's range 0 to 9 is a fact of every built table, not of the type (DEDUCED; log entry 3). -/
inductive Response where
  | none
  | codeword (c : Codeword)
  | decoded (d : DataWord) (st : DataStatus)
  | uncorrectable
  | row (r : Row)
  | entry (e : SynEntry 4)
  | status (ready : Bool) (cfault : CFault)
  | error (e : CmdError)
  deriving DecidableEq, Repr

/-- The whole architectural state of the block (R30): the tables and the two fields of `STAT`. -/
structure Block where
  /-- `G`, 6 × 10 (R32). -/
  g : Mat 6 10
  /-- `H`, 4 × 10 (R33). -/
  h : Mat 4 10
  /-- `SYN`, 16 entries of 1 + 4 bits (R34). -/
  syn : SynTable 4 4
  /-- `STAT.ready` (R35). -/
  ready : Bool
  /-- `STAT.cfault` (R35). -/
  cfault : CFault
  deriving DecidableEq, Repr

end Sys2Proof.Machine
end

