-- ==== Sys2Proof/Machine/Derivator.lean ====
section
/-! DEFINITION. The Parity-Check Derivator (spec/40_construction.md R121). -/

namespace Sys2Proof.Machine

/-- `DERIVE`: `H = [Pᵗ | I_r]` from the last `r` columns of `G`; it does not look at the first `k` (R121). -/
def deriveMatrix (k r : Nat) (G : Mat k (k + r)) : Mat r (k + r) :=
  ofRows r fun j => ofElems (k + r) fun c =>
    if c < k then entry G c (k + j) else c - k == j

end Sys2Proof.Machine
end

