-- ==== Sys2Proof/Machine/Reducer.lean ====
section
/-! DEFINITION. The Matrix Reducer, Gauss-Jordan elimination over GF(2) for a general `k × n` matrix
(spec/40_construction.md R110 to R117). -/

namespace Sys2Proof.Machine

/-- `RSWAP(M, i, j)`: rows `i` and `j` exchange contents (R110). -/
def rswap {k n : Nat} (M : Mat k n) (i j : Nat) : Mat k n :=
  setRow (setRow M i (rowOf M j)) j (rowOf M i)

/-- `RXOR(M, j, i)`: row `j` becomes `M[j] ^ M[i]` (R110). -/
def rxor {k n : Nat} (M : Mat k n) (j i : Nat) : Mat k n :=
  setRow M j (rowOf M j ^^^ rowOf M i)

/-- The rows below row `i`, in index order (R114, R115). -/
def rowsBelow (k i : Nat) : List Nat :=
  List.range' (i + 1) (k - (i + 1))

/-- The least row below `i` with a 1 in column `i` (R114). -/
def pivotRow {k n : Nat} (M : Mat k n) (i : Nat) : Option Nat :=
  (rowsBelow k i).find? fun j => entry M j i

/-- Secure a 1 at the pivot of column `i`: no exchange when it is there, else the pivot search; `none` is the
rank fault (R114, R116). -/
def securePivot {k n : Nat} (M : Mat k n) (i : Nat) : Option (Mat k n) :=
  if entry M i i then some M
  else (pivotRow M i).map (rswap M i)

/-- XOR row `i` into each row of `rows` that has a 1 in column `i`, in the order given (R115, R117). -/
def clearRows {k n : Nat} (M : Mat k n) (i : Nat) (rows : List Nat) : Mat k n :=
  rows.foldl (fun M j => if entry M j i then rxor M j i else M) M

/-- Column `i` of the forward pass (R114, R115). -/
def forwardColumn {k n : Nat} (M : Mat k n) (i : Nat) : Option (Mat k n) :=
  (securePivot M i).map fun M => clearRows M i (rowsBelow k i)

/-- The forward pass: columns 0 to `k − 1`; no later column is visited after a rank fault (R112, R116). -/
def forwardPass {k n : Nat} (M : Mat k n) : Option (Mat k n) :=
  (List.range k).foldlM forwardColumn M

/-- The backward pass: columns `k − 1` down to 0, each cleared above its pivot (R117). -/
def backwardPass {k n : Nat} (M : Mat k n) : Mat k n :=
  (List.range k).reverse.foldl (fun M i => clearRows M i (List.range i)) M

/-- `REDUCE`: the reduced matrix, or `none` for the fatal fault `C_RANK` (R113). -/
def reduceMatrix {k n : Nat} (seed : Mat k n) : Option (Mat k n) :=
  (forwardPass seed).map backwardPass

end Sys2Proof.Machine
end

