-- ==== Sys2Proof/Machine/Construction.lean ====
section
/-! DEFINITION. The construction sequence Reducer, Derivator, Table Builder, and its two fatal faults
(spec/40_construction.md R126, spec/60_exceptions.md R187). -/

namespace Sys2Proof.Machine

/-- `fatal`: construction ends with `ready = 0`, `cfault` the code and the tables unspecified, their free
values (R187, R46).  The one operation that takes a construction fault. -/
def fatal (seed : Mat 6 10) (c : CFault) : Block :=
  { g := Config.failedG seed
    h := Config.failedH seed
    syn := (Config.failedSyn seed).map fun e => { hit := e.1, pos := e.2 }
    ready := false
    cfault := c }

/-- The `cfault` value of a code 0 to 2 (R35). -/
def cfaultOfCode : Fin 3 → CFault
  | 0 => .cNone
  | 1 => .cRank
  | 2 => .cColumns

/-- `CONSTRUCT`'s `ready <- 0`; nothing built before is kept (R126, R210).  DESIGN CHOICE: R126 writes nothing else
there and leaves the tables and `cfault` open until a later line of it writes them, so they hold their free
values (log entry 2 the tables, log entry 15 `cfault`). -/
def beginConstruct (seed : Mat 6 10) : Block :=
  { fatal seed .cNone with cfault := cfaultOfCode (Config.pendingCfault seed) }

/-- `G <- REDUCE(SEED_G)`, or the fault `C_RANK` (R113, R116). -/
def reduceUnit (seed : Mat 6 10) (b : Block) : Except CFault Block :=
  match reduceMatrix seed with
  | some m => .ok { b with g := m }
  | none => .error .cRank

/-- `H <- DERIVE(G)`; total (R121). -/
def deriveUnit (b : Block) : Except CFault Block :=
  .ok { b with h := deriveMatrix 6 4 b.g }

/-- `SYN <- BUILD(H)`, or the fault `C_COLUMNS` (R123, R124). -/
def buildUnit (b : Block) : Except CFault Block :=
  match buildTable 4 b.h with
  | some t => .ok { b with syn := t }
  | none => .error .cColumns

/-- `CONSTRUCT`'s `cfault <- 0; ready <- 1` (R126). -/
def finishConstruct (b : Block) : Block :=
  { b with cfault := .cNone, ready := true }

/-- The three units in the source's order, from `ready <- 0` (R126). -/
def constructUnits (seed : Mat 6 10) : Except CFault Block :=
  match reduceUnit seed (beginConstruct seed) with
  | .error c => .error c
  | .ok b₁ =>
    match deriveUnit b₁ with
    | .error c => .error c
    | .ok b₂ => buildUnit b₂

/-- `CONSTRUCT`: the state after a reset step, a function of the seed alone (R126, R45). -/
def construct (seed : Mat 6 10) : Block :=
  match constructUnits seed with
  | .ok b => finishConstruct b
  | .error c => fatal seed c

end Sys2Proof.Machine
end

