-- ==== Sys2Proof/Machine/State.lean ====
section
/-! DEFINITION. The machine's state, its reasons to stop, and the state right after reset
(spec/10_state.md R30, R41, R44, R45). -/

namespace Sys2Proof.Machine

/-- The machine.  `block` and `cstep` are the spec's; `port` and `rsp` are the model's own fields for what
crosses the interface (log entries 4 and 5). -/
structure State where
  /-- The block's five state elements; `none` before the first reset step, when it has no state at all (R44). -/
  block : Option Block
  /-- The reset step's hidden step counter, 3 "done" whenever no unit is left to run (R41, R86). -/
  cstep : CStep
  /-- What the host will present, next first: the input of the steps to come (R12, R37). -/
  port : List HostEvent
  /-- What the response port shows: the last command's response, `none` after a reset step (R42). -/
  rsp : Option Response
  deriving DecidableEq, Repr

/-- No step of this block ends in a fault: every error is a response and a failed construction is a state (R199). -/
inductive Fault where
  deriving DecidableEq, Repr

/-- Why the model gives an instruction no meaning. -/
inductive Refusal where
  /-- Raised by an arm of `exec` whose instruction has no meaning yet; safe.  No arm raises it. -/
  | notModelled (mnemonic : String)
  /-- Raised by every command, and by a unit of the reset step, before the first reset step: the block has no
  state then (R44, R199).  Safe. -/
  | beforeFirstReset
  /-- Raised by `ENC` and `DEC` on an operand of more than 15 elements, which no command word carries (U12).
  Safe: no word decodes to one. -/
  | notPresentable
  deriving DecidableEq, Repr

/-- Right after a reset step (R45): the block as `CONSTRUCT` leaves it, no unit pending, nothing presented,
nothing answered. -/
def State.reset : State :=
  { block := some (construct Config.seedG), cstep := .done, port := [], rsp := none }

/-- Before the first reset step: no block state at all (R44). -/
def State.powerOn : State :=
  { block := none, cstep := .done, port := [], rsp := none }

end Sys2Proof.Machine
end

