-- ==== Sys2Proof/Machine/Ops.lean ====
section
/-! DEFINITION. The operations every instruction shares: reading the tables, answering, raising an error,
running one unit of the reset step, and taking what the host presents next (spec/00_scope.md R19,
spec/20_memory.md R60, spec/60_exceptions.md R184, R187). -/

namespace Sys2Proof.Machine

/-- `MemRead(GROW, a)` (R60). -/
def readG (b : Block) (a : Nat) : Row :=
  rowOf b.g a

/-- `MemRead(HROW, a)` (R60). -/
def readH (b : Block) (a : Nat) : Row :=
  rowOf b.h a

/-- `MemRead(SYNROM, a)` (R60). -/
def readSyn (b : Block) (a : Syndrome) : SynEntry 4 :=
  lookup b.syn a

/-- `raise e`: the response is `Error(e)` and nothing else happens; there is nothing to return from (R184, R189). -/
def raise (e : CmdError) : Response :=
  .error e

/-- The response port shows `r`; no state is changed (R31, R42). -/
def State.answer (s : State) (r : Response) : State :=
  { s with rsp := some r }

/-- A command answers from the block's state; before the first reset it has no meaning (R13, R44). -/
def command (s : State) (f : Block → Response) : Host.Outcome State Fault Refusal :=
  match s.block with
  | some b => .next (s.answer (f b))
  | none => .refused .beforeFirstReset

/-- A unit of the reset step ended: its result and the next counter value, or its fault, which ends the reset
step at once (R41, R126, R187).  A reset step has no response. -/
def State.afterUnit (s : State) (seed : Mat 6 10) (result : Except CFault Block) (nextStep : CStep) : State :=
  { s with
    block := some (match result with | .ok b => b | .error c => fatal seed c)
    cstep := match result with | .ok _ => nextStep | .error _ => .done
    rsp := none }

/-- Run one unit of the reset step, inside which the block has state (R41, R86). -/
def runUnit (s : State) (unit : Block → Except CFault Block) (nextStep : CStep) :
    Host.Outcome State Fault Refusal :=
  match s.block with
  | some b => .next (s.afterUnit Config.seedG (unit b) nextStep)
  | none => .refused .beforeFirstReset

/-- The instruction the next step runs and the state it runs in: the pending unit of a reset step, else what
the host presents, which leaves the port; `none` when the block is idle (R86, R93, R198). -/
def fetch (s : State) : Option (Instr × State) :=
  match s.cstep with
  | .reduce => some (.reduce, s)
  | .derive => some (.derive, s)
  | .build => some (.build, s)
  | .done =>
    match s.port with
    | [] => none
    | e :: rest => some (decodeEvent e, { s with port := rest })

/-- `s` with a selection placed where `fetch` finds it first: the host presents it, or the counter selects it. -/
def select (s : State) : Selection → State
  | .command w => { s with cstep := .done, port := .command w :: s.port }
  | .rst true => { s with cstep := .done, port := .reset :: s.port }
  | .rst false => s
  | .unit c => { s with cstep := CStep.ofCode c }

end Sys2Proof.Machine
end

