-- ==== Sys2Proof/Machine/Decoder.lean ====
section
/-! DEFINITION. The Decoder, `DEC` (spec/42_decoder.md). -/

namespace Sys2Proof.Machine

/-- The outcome of a received word: the decision table of R156, cases R159 to R162 in the order of R150. -/
def decodeWord (H : Mat 4 10) (T : SynTable 4 4) (s : Codeword) : Response :=
  let hp := hammingPart s
  let S := syndrome H hp
  if synZero S && !parityError s then .decoded (firstBits 6 hp) .valid
  else if synZero S && parityError s then .decoded (firstBits 6 hp) .corrected
  else if parityError s then
    let e := synLookup T S
    if e.hit then .decoded (firstBits 6 (flipAt e.pos.toNat hp)) .corrected
    else .uncorrectable
  else .uncorrectable

/-- The response of `DEC`, checks in the order of R188 (R150). -/
def decResponse (s : BitSeq) (b : Block) : Response :=
  if b.ready = false then raise .eNotReady
  else if decLengthOk s = false then raise .eLength
  else decodeWord b.h b.syn (receivedOperand s)

/-- `DEC s` (R150); a sequence the port cannot carry has no meaning (U12). -/
def execDec (r : BitSeq) (s : State) : Host.Outcome State Fault Refusal :=
  if presentable r then command s (decResponse r) else .refused .notPresentable

end Sys2Proof.Machine
end

