-- ==== Sys2Proof/Machine/Encoder.lean ====
section
/-! DEFINITION. The Encoder, `ENC` (spec/41_encoder.md). -/

namespace Sys2Proof.Machine

/-- The Hamming-protected portion: the dot product of the data word with each column of `G` (R142). -/
def protectedBits (G : Mat 6 10) (d : DataWord) : Row :=
  vecMul d G

/-- The codeword: the protected bits and their overall parity as element 10 (R143). -/
def encodeWord (G : Mat 6 10) (d : DataWord) : Codeword :=
  (protectedBits G d).concat (xsum (protectedBits G d))

/-- The response of `ENC`, checks in the order of R188 (R140). -/
def encResponse (s : BitSeq) (b : Block) : Response :=
  if b.ready = false then raise .eNotReady
  else if encLengthOk s = false then raise .eLength
  else .codeword (encodeWord b.g (dataOperand s))

/-- `ENC s` (R140); a sequence the port cannot carry has no meaning (U12). -/
def execEnc (d : BitSeq) (s : State) : Host.Outcome State Fault Refusal :=
  if presentable d then command s (encResponse d) else .refused .notPresentable

end Sys2Proof.Machine
end

