-- ==== Sys2Proof/Machine/HostAccess.lean ====
section
/-! DEFINITION. Host access to the tables and to the status register (spec/43_host_access.md). -/

namespace Sys2Proof.Machine

/-- `NOP` (R170). -/
def execNop (s : State) : Host.Outcome State Fault Refusal :=
  command s fun _ => .none

/-- `STAT` (R171). -/
def execStat (s : State) : Host.Outcome State Fault Refusal :=
  command s fun b => .status b.ready b.cfault

/-- The response of `RDG` (R172). -/
def rdgResponse (idx : Fin 16) (b : Block) : Response :=
  if b.ready = false then raise .eNotReady
  else if namesRowOfG idx = false then raise .eIndex
  else .row (readG b idx)

/-- `RDG idx` (R172). -/
def execRdg (idx : Fin 16) (s : State) : Host.Outcome State Fault Refusal :=
  command s (rdgResponse idx)

/-- The response of `RDH` (R173). -/
def rdhResponse (idx : Fin 16) (b : Block) : Response :=
  if b.ready = false then raise .eNotReady
  else if namesRowOfH idx = false then raise .eIndex
  else .row (readH b idx)

/-- `RDH idx` (R173). -/
def execRdh (idx : Fin 16) (s : State) : Host.Outcome State Fault Refusal :=
  command s (rdhResponse idx)

/-- The response of `RDS` (R174). -/
def rdsResponse (idx : Fin 16) (b : Block) : Response :=
  if b.ready = false then raise .eNotReady
  else .entry (readSyn b (synAddress idx))

/-- `RDS idx` (R174). -/
def execRds (idx : Fin 16) (s : State) : Host.Outcome State Fault Refusal :=
  command s (rdsResponse idx)

end Sys2Proof.Machine
end

