-- ==== Sys2Proof/Machine/Reserved.lean ====
section
/-! DEFINITION. The reserved operation codes (spec/30_encoding.md R85, spec/60_exceptions.md R183). -/

namespace Sys2Proof.Machine

/-- A word that selects no operation raises `E_ILLEGAL`, ready or failed alike (R85, R183). -/
def illegalResponse (_ : Block) : Response :=
  raise .eIllegal

/-- Operation code 7 (R85). -/
def execReserved7 (s : State) : Host.Outcome State Fault Refusal :=
  command s illegalResponse

/-- Operation codes 8 to 15 (R85). -/
def execReserved8to15 (_low : Fin 8) (s : State) : Host.Outcome State Fault Refusal :=
  command s illegalResponse

end Sys2Proof.Machine
end

