-- ==== Sys2Proof/Machine/ResetStep.lean ====
section
/-! DEFINITION. The reset step and its three units (spec/70_reset_and_hazards.md R210, spec/40_construction.md). -/

namespace Sys2Proof.Machine

/-- `CONSTRUCT`, the atomic reset step: the five elements are written from `SEED_G` and every earlier value
is lost; no response, no unit left to run (R126, R210). -/
def execConstruct (s : State) : Host.Outcome State Fault Refusal :=
  .next { s with block := some (construct Config.seedG), cstep := .done, rsp := none }

/-- `REDUCE`, `cstep = 0` (R113). -/
def execReduce (s : State) : Host.Outcome State Fault Refusal :=
  runUnit s (reduceUnit Config.seedG) .derive

/-- `DERIVE`, `cstep = 1` (R121). -/
def execDerive (s : State) : Host.Outcome State Fault Refusal :=
  runUnit s deriveUnit .build

/-- `BUILD`, `cstep = 2` (R123). -/
def execBuild (s : State) : Host.Outcome State Fault Refusal :=
  runUnit s buildUnit .done

end Sys2Proof.Machine
end

