-- ==== Sys2Proof/Machine/Dispatch.lean ====
section
/-! DEFINITION. One arm per row of spec/opcode_table.json. -/

namespace Sys2Proof.Machine

def exec (i : Instr) (s : State) : Host.Outcome State Fault Refusal :=
  match i with
  | .nop => Sys2Proof.Machine.execNop s
  | .enc d => Sys2Proof.Machine.execEnc d s
  | .dec r => Sys2Proof.Machine.execDec r s
  | .rdg idx => Sys2Proof.Machine.execRdg idx s
  | .rdh idx => Sys2Proof.Machine.execRdh idx s
  | .rds idx => Sys2Proof.Machine.execRds idx s
  | .stat => Sys2Proof.Machine.execStat s
  | .reserved7 => Sys2Proof.Machine.execReserved7 s
  | .reserved8to15 low => Sys2Proof.Machine.execReserved8to15 low s
  | .construct => Sys2Proof.Machine.execConstruct s
  | .reduce => Sys2Proof.Machine.execReduce s
  | .derive => Sys2Proof.Machine.execDerive s
  | .build => Sys2Proof.Machine.execBuild s

end Sys2Proof.Machine
end

