-- ==== Sys2Proof/Machine/Step.lean ====
section
/-! DEFINITION. One step of the block: a pending unit, else one event of the host, else idle
(spec/00_scope.md R13, spec/30_encoding.md R93, spec/60_exceptions.md R198). -/

namespace Sys2Proof.Machine

/-- One step.  With nothing presented the block holds its state (R198). -/
def step (s : State) : Host.Outcome State Fault Refusal :=
  match fetch s with
  | some (i, s') => exec i s'
  | none => .next s

/-- `s` with the instruction of an opcode-table word placed where `step` finds it next. -/
def State.withFetchWord (s : State) (nbits w : Nat) : State :=
  match selectionOfTableWord nbits w with
  | some sel => select s sel
  | none => s

end Sys2Proof.Machine
end

