-- ==== Sys2Proof/Machine/Text.lean ====
section
/-! DEFINITION. The textual form of commands, responses and programs (spec/30_encoding.md R92).  Texts are lists
of characters. -/

namespace Sys2Proof.Machine

abbrev Text := List Char

/-- A binary digit. -/
def digit (b : Bool) : Char :=
  if b then '1' else '0'

/-- A bit string, leftmost element first (R14, R92). -/
def bitText (s : BitSeq) : Text :=
  s.map digit

/-- An operand: a bit string, or `-` for the empty operand (R92). -/
def operandText (s : BitSeq) : Text :=
  if s.isEmpty then ['-'] else bitText s

/-- A number from 0 to 19 in decimal. -/
def decimalText (n : Nat) : Text :=
  if n < 10 then [Char.ofNat (48 + n)] else ['1', Char.ofNat (48 + (n - 10))]

/-- A command's line; `RESET` stands for a reset step (R92).  Reserved words and the units of the reset step
have no text. -/
def lineText : Instr → Option Text
  | .nop => some ['N', 'O', 'P']
  | .enc s => some (['E', 'N', 'C', ' '] ++ operandText s)
  | .dec s => some (['D', 'E', 'C', ' '] ++ operandText s)
  | .rdg idx => some (['R', 'D', 'G', ' '] ++ decimalText idx)
  | .rdh idx => some (['R', 'D', 'H', ' '] ++ decimalText idx)
  | .rds idx => some (['R', 'D', 'S', ' '] ++ decimalText idx)
  | .stat => some ['S', 'T', 'A', 'T']
  | .reserved7 => none
  | .reserved8to15 _ => none
  | .construct => some ['R', 'E', 'S', 'E', 'T']
  | .reduce => none
  | .derive => none
  | .build => none

/-- The name of a command error (R89). -/
def errorText : CmdError → Text
  | .eLength => ['E', '_', 'L', 'E', 'N', 'G', 'T', 'H']
  | .eIllegal => ['E', '_', 'I', 'L', 'L', 'E', 'G', 'A', 'L']
  | .eNotReady => ['E', '_', 'N', 'O', 'T', 'R', 'E', 'A', 'D', 'Y']
  | .eIndex => ['E', '_', 'I', 'N', 'D', 'E', 'X']

/-- The digit of a `cfault` value (R35). -/
def cfaultDigit : CFault → Char
  | .cNone => '0'
  | .cRank => '1'
  | .cColumns => '2'

/-- The name of a decode status with data (R88). -/
def statusText : DataStatus → Text
  | .valid => ['V', 'A', 'L', 'I', 'D']
  | .corrected => ['C', 'O', 'R', 'R', 'E', 'C', 'T', 'E', 'D']

/-- A response as text (R92). -/
def responseText : Response → Text
  | .none => ['N', 'O', 'N', 'E']
  | .codeword c => ['C', 'W', ' '] ++ bitText (elems c)
  | .decoded d st => ['D', 'A', 'T', 'A', ' '] ++ bitText (elems d) ++ [' '] ++ statusText st
  | .uncorrectable => ['U', 'N', 'C', 'O', 'R', 'R', 'E', 'C', 'T', 'A', 'B', 'L', 'E']
  | .row r => ['R', 'O', 'W', ' '] ++ bitText (elems r)
  | .entry e =>
    if e.hit then ['H', 'I', 'T', ' '] ++ decimalText e.pos.toNat else ['M', 'I', 'S', 'S']
  | .status ready cfault =>
    ['S', 'T', 'A', 'T', 'U', 'S', ' ', 'r', 'e', 'a', 'd', 'y', '='] ++ [digit ready] ++
      [' ', 'c', 'f', 'a', 'u', 'l', 't', '='] ++ [cfaultDigit cfault]
  | .error e => ['E', 'R', 'R', ' '] ++ errorText e

/-- What stands after a prefix, if the text has it. -/
def afterPrefix (p l : Text) : Option Text :=
  if p.isPrefixOf l then some (l.drop p.length) else none

/-- A bit string read back. -/
def parseBits : Text → Option BitSeq
  | [] => some []
  | c :: cs =>
    if c = '0' then (parseBits cs).map (false :: ·)
    else if c = '1' then (parseBits cs).map (true :: ·)
    else none

/-- An operand read back: `-`, or 1 to 15 binary digits (R92). -/
def parseOperand (l : Text) : Option BitSeq :=
  if l = ['-'] then some []
  else if l.isEmpty || decide (lenMax < l.length) then none
  else parseBits l

/-- An index read back: 0 to 15 in decimal (R92). -/
def parseIndex (l : Text) : Option (Fin 16) :=
  (List.finRange 16).find? fun idx => decimalText idx = l

/-- A line read back as the instruction it names (R92); the mnemonic decides how the rest is read. -/
def parseLine (l : Text) : Option Instr :=
  if l = ['R', 'E', 'S', 'E', 'T'] then some .construct
  else if l = ['N', 'O', 'P'] then some .nop
  else if l = ['S', 'T', 'A', 'T'] then some .stat
  else
    match afterPrefix ['E', 'N', 'C', ' '] l with
    | some rest => (parseOperand rest).map .enc
    | none =>
      match afterPrefix ['D', 'E', 'C', ' '] l with
      | some rest => (parseOperand rest).map .dec
      | none =>
        match afterPrefix ['R', 'D', 'G', ' '] l with
        | some rest => (parseIndex rest).map .rdg
        | none =>
          match afterPrefix ['R', 'D', 'H', ' '] l with
          | some rest => (parseIndex rest).map .rdh
          | none =>
            match afterPrefix ['R', 'D', 'S', ' '] l with
            | some rest => (parseIndex rest).map .rds
            | none => none

/-- What the host presents for an instruction: a command word, or the reset input (R86). -/
def eventOf (i : Instr) : Option HostEvent :=
  match encode i with
  | .command w => some (.command w)
  | .rst true => some .reset
  | .rst false => none
  | .unit _ => none

/-- A program, a list of lines run top to bottom, as what the host presents (R92, R93). -/
def assemble (program : List Text) : Option (List HostEvent) :=
  program.mapM fun l => (parseLine l).bind eventOf

end Sys2Proof.Machine
end

