-- ==== Sys2Proof/Machine/ResponseWord.lean ====
section
/-! DEFINITION. The response word `RSP` of each response (spec/30_encoding.md R87 to R90). -/

namespace Sys2Proof.Machine

/-- The `err` code of a command error (R89). -/
def CmdError.code : CmdError → BitVec 3
  | .eLength => 1
  | .eIllegal => 2
  | .eNotReady => 3
  | .eIndex => 4

/-- The `status` code of a decode status with data (R88). -/
def DataStatus.code : DataStatus → BitVec 2
  | .valid => 1
  | .corrected => 2

/-- The `cfault` code (R35). -/
def CFault.code : CFault → BitVec 2
  | .cNone => 0
  | .cRank => 1
  | .cColumns => 2

/-- `RSP` from its three fields `err[15:13]`, `status[12:11]`, `value[10:0]` (R87). -/
def responseFields (err : BitVec 3) (status : BitVec 2) (value : BitVec 11) : RspWord :=
  (err ++ status ++ value).cast rfl

/-- The response word (R90); every unused bit is 0. -/
def Response.word : Response → RspWord
  | .none => responseFields 0 0 0
  | .codeword c => responseFields 0 0 c
  | .decoded d st => responseFields 0 st.code ((d ++ 0#5).cast rfl)
  | .uncorrectable => responseFields 0 3 0
  | .row r => responseFields 0 0 ((r ++ 0#1).cast rfl)
  | .entry e => responseFields 0 0 ((BitVec.ofBool e.hit ++ e.pos ++ 0#6).cast rfl)
  | .status ready cfault => responseFields 0 0 ((BitVec.ofBool ready ++ cfault.code ++ 0#8).cast rfl)
  | .error e => responseFields e.code 0 0

/-- The word on the response port, if the last step was a command (R42, R87). -/
def State.rspWord (s : State) : Option RspWord :=
  s.rsp.map Response.word

end Sys2Proof.Machine
end

