-- ==== Sys2Proof/Safety.lean ====
section
/-! DEFINITION. What the spec promises of a block, in the terms the statements use: the table invariants of a
ready block, the predicates on the seed, valid codewords, and what the host sees of a run
(spec/10_state.md R32 to R35, spec/40_construction.md R127, R128). -/

namespace Sys2Proof.Machine

/-- The leftmost `k × k` block is the identity (R32). -/
def IsSystematic {k n : Nat} (M : Mat k n) : Prop :=
  ∀ i < k, ∀ j < k, entry M i j = decide (i = j)

/-- `H = [Pᵗ | I_4]` for `G = [I_6 | P]` (R33). -/
def IsCheckMatrixOf (G : Mat 6 10) (H : Mat 4 10) : Prop :=
  ∀ j < 4, (∀ i < 6, entry H j i = entry G i (6 + j)) ∧ (∀ c < 4, entry H j (6 + c) = decide (c = j))

/-- `SYN` maps each column of `H` to its index and misses everywhere else, `SYN[0]` among them (R34). -/
def IsSyndromeTableOf (H : Mat 4 10) (T : SynTable 4 4) : Prop :=
  (∀ c : Fin 10, lookup T (col H c) = { hit := true, pos := BitVec.ofNat 4 c.val }) ∧
  (∀ S : Syndrome, (∀ c : Fin 10, col H c ≠ S) → lookup T S = SynEntry.miss 4) ∧
  lookup T 0#4 = SynEntry.miss 4

/-- What `ready = 1` says of the tables (R32 to R35). -/
structure Block.Built (b : Block) : Prop where
  systematic : IsSystematic b.g
  check : IsCheckMatrixOf b.g b.h
  table : IsSyndromeTableOf b.h b.syn

/-- The block invariant: a ready block is built, and `cfault` is `C_NONE` exactly when `ready = 1` (R35). -/
def Block.Inv (b : Block) : Prop :=
  (b.ready = true → b.Built) ∧ (b.ready = true ↔ b.cfault = .cNone)

/-- The state invariant: between steps no unit of a reset step is pending (R210), and the block is in order. -/
def State.Inv (s : State) : Prop :=
  s.cstep = .done ∧ ∀ b, s.block = some b → b.Inv

/-- Row `i` of `P`, the right `6 × 4` block (R32). -/
def parityRow (G : Mat 6 10) (i : Nat) : BitVec 4 :=
  ofElems 4 fun t => entry G i (6 + t)

/-- A sequence with at least two 1s. -/
def HasTwoOnes {n : Nat} (s : BitVec n) : Prop :=
  ∃ i < n, ∃ j < n, i ≠ j ∧ s.getMsbD i = true ∧ s.getMsbD j = true

/-- A square matrix is invertible over GF(2): some matrix is its two-sided inverse (R118). -/
def Invertible {k : Nat} (A : Mat k k) : Prop :=
  ∃ B : Mat k k, matMul B A = identity k ∧ matMul A B = identity k

/-- `SeedOK` (R127): the left block is invertible, and the rows of the reduced right block are pairwise
distinct with at least two 1s each. -/
def SeedOK (seed : Mat 6 10) : Prop :=
  Invertible (leftBlock 6 seed) ∧
  ∀ G, reduceMatrix seed = some G →
    (∀ i < 6, ∀ j < 6, parityRow G i = parityRow G j → i = j) ∧ ∀ i < 6, HasTwoOnes (parityRow G i)

/-- `ConstructOK` (R127): `CONSTRUCT` ends with `ready = 1`. -/
def ConstructOK (seed : Mat 6 10) : Prop :=
  (construct seed).ready = true

/-- `w` is in the row space of `M`: it is the XOR of some of the rows (R119). -/
def InRowSpace {k n : Nat} (M : Mat k n) (w : BitVec n) : Prop :=
  ∃ x : BitVec k, w = vecMul x M

/-- A valid codeword: `c ++ (xsum(c))` with `c` in the row space of `G` (R21). -/
def ValidCodeword (G : Mat 6 10) (w : Codeword) : Prop :=
  ∃ c : Row, InRowSpace G c ∧ w = c.concat (xsum c)

/-- In how many positions two sequences differ. -/
def distance {n : Nat} (s t : BitVec n) : Nat :=
  ((List.range n).filter fun j => s.getMsbD j != t.getMsbD j).length

/-- How many of the 2048 received words have a property (R168). -/
def countWords (p : Codeword → Bool) : Nat :=
  ((List.range 2048).filter fun w => p (BitVec.ofNat 11 w)).length

/-- The ROM entry `DEC` would consult for a received word is a hit (R157). -/
def tableHit (b : Block) (w : Codeword) : Bool :=
  (synLookup b.syn (syndrome b.h (hammingPart w))).hit

/-- `syn_zero` of a received word (R155). -/
def zeroSyndrome (b : Block) (w : Codeword) : Bool :=
  synZero (syndrome b.h (hammingPart w))

/-- The response a command gets in a state, if it gets one. -/
def responseTo (s : State) (i : Instr) : Option Response :=
  match exec i s with
  | .next t => t.rsp
  | .fault _ => none
  | .refused _ => none

/-- What the host sees of a run: the response port after each event it presents, until the block gives one
no meaning (R42, R93). -/
def session (s : State) : List HostEvent → List (Option Response)
  | [] => []
  | e :: es =>
    match step { s with port := [e] } with
    | .next t => t.rsp :: session t es
    | .fault _ => []
    | .refused _ => []

end Sys2Proof.Machine
end

