-- ==== Sys2Proof/Certificates/Slice0/Obligations.lean ====
section
/-! DEFINITION. The statements for the provers, each with the rule of spec/ it formalises. -/

open Sys2Proof Sys2Proof.Machine

/-! Encoding -/

/-- 30_encoding.md R80 to R86: no bit of an instruction is lost between the encoder and the decoder. -/
def Obligations.DecodeOfEncodeIsIdentity : Prop :=
  ∀ i : Instr, i.wellFormed = true → decode (encode i) = .ok i

/-- R84: the word `w` selects the row when `w & mask = match`, for every row of the opcode map. -/
def Obligations.OpcodeMapSelectsByMaskAndMatch : Prop :=
  ∀ w : CmdWord,
    (decodeCommand w = .nop ↔ w &&& 0xF00000#24 = 0x000000#24) ∧
    ((∃ s, decodeCommand w = .enc s) ↔ w &&& 0xF00000#24 = 0x100000#24) ∧
    ((∃ s, decodeCommand w = .dec s) ↔ w &&& 0xF00000#24 = 0x200000#24) ∧
    ((∃ a, decodeCommand w = .rdg a) ↔ w &&& 0xF00000#24 = 0x300000#24) ∧
    ((∃ a, decodeCommand w = .rdh a) ↔ w &&& 0xF00000#24 = 0x400000#24) ∧
    ((∃ a, decodeCommand w = .rds a) ↔ w &&& 0xF00000#24 = 0x500000#24) ∧
    (decodeCommand w = .stat ↔ w &&& 0xF00000#24 = 0x600000#24) ∧
    (decodeCommand w = .reserved7 ↔ w &&& 0xF00000#24 = 0x700000#24) ∧
    ((∃ low, decodeCommand w = .reserved8to15 low) ↔ w &&& 0x800000#24 = 0x800000#24)

/-- R81, R82, R83: how the operand sequence and the index are read, and that nothing else in the word counts. -/
def Obligations.OperandFieldsAndIgnoredFields : Prop :=
  (∀ (w : CmdWord) (s : BitSeq), decodeCommand w = .enc s ∨ decodeCommand w = .dec s →
    s.length = (w.extractLsb' 16 4).toNat ∧ ∀ i < s.length, s[i]? = some (w.getLsbD (15 - i))) ∧
  (∀ (w : CmdWord) (a : Fin 16), decodeCommand w = .rdg a ∨ decodeCommand w = .rdh a ∨ decodeCommand w = .rds a →
    a.val = (w.extractLsb' 16 4).toNat) ∧
  (∀ w v : CmdWord, w.extractLsb' 20 4 = v.extractLsb' 20 4 →
    ((w.extractLsb' 20 4 = 0#4 ∨ 6 ≤ (w.extractLsb' 20 4).toNat) → decodeCommand w = decodeCommand v) ∧
    (w.extractLsb' 16 4 = v.extractLsb' 16 4 → 3 ≤ (w.extractLsb' 20 4).toNat →
      decodeCommand w = decodeCommand v) ∧
    (w.extractLsb' 16 4 = v.extractLsb' 16 4 →
      (∀ i < (w.extractLsb' 16 4).toNat, w.getLsbD (15 - i) = v.getLsbD (15 - i)) →
      decodeCommand w = decodeCommand v))

/-- Words written out from R80 to R84 and the examples of R83 and R91. -/
def Obligations.SampleWordsDecodeAsTheSpecSays : Prop :=
  decodeCommand 0x000000#24 = .nop ∧
  decodeCommand 0x16B000#24 = .enc [true, false, true, true, false, false] ∧
  decodeCommand 0x16B3FF#24 = .enc [true, false, true, true, false, false] ∧
  decodeCommand 0x2BB2C0#24 =
    .dec [true, false, true, true, false, false, true, false, true, true, false] ∧
  decodeCommand 0x100000#24 = .enc [] ∧
  decodeCommand 0x320000#24 = .rdg 2 ∧
  decodeCommand 0x430000#24 = .rdh 3 ∧
  decodeCommand 0x5C0000#24 = .rds 12 ∧
  decodeCommand 0x600000#24 = .stat ∧
  decodeCommand 0x700000#24 = .reserved7 ∧
  decodeCommand 0xF12345#24 = .reserved8to15 7 ∧
  decode (.rst true) = .ok .construct ∧
  decode (.unit 0b00#2) = .ok .reduce ∧
  decode (.unit 0b01#2) = .ok .derive ∧
  decode (.unit 0b10#2) = .ok .build

/-- R90: the fields of the response word, by kind of response. -/
def Obligations.ResponseWordFieldsByKind : Prop :=
  Response.word .none = 0#16 ∧
  (∀ c : Codeword, (Response.word (.codeword c)).extractLsb' 11 5 = 0#5 ∧
    ∀ i ≤ 10, (Response.word (.codeword c)).getLsbD (10 - i) = c.getMsbD i) ∧
  (∀ (d : DataWord) (st : DataStatus), (Response.word (.decoded d st)).extractLsb' 13 3 = 0#3 ∧
    (Response.word (.decoded d .valid)).extractLsb' 11 2 = 1#2 ∧
    (Response.word (.decoded d .corrected)).extractLsb' 11 2 = 2#2 ∧
    (∀ i ≤ 5, (Response.word (.decoded d st)).getLsbD (10 - i) = d.getMsbD i) ∧
    (Response.word (.decoded d st)).extractLsb' 0 5 = 0#5) ∧
  ((Response.word .uncorrectable).extractLsb' 13 3 = 0#3 ∧ (Response.word .uncorrectable).extractLsb' 11 2 = 3#2 ∧
    (Response.word .uncorrectable).extractLsb' 0 11 = 0#11) ∧
  (∀ r : Row, (Response.word (.row r)).extractLsb' 11 5 = 0#5 ∧
    (∀ j ≤ 9, (Response.word (.row r)).getLsbD (10 - j) = r.getMsbD j) ∧
    (Response.word (.row r)).getLsbD 0 = false) ∧
  (∀ e : SynEntry 4, (Response.word (.entry e)).extractLsb' 11 5 = 0#5 ∧
    (Response.word (.entry e)).getLsbD 10 = e.hit ∧
    (Response.word (.entry e)).extractLsb' 6 4 = e.pos ∧
    (Response.word (.entry e)).extractLsb' 0 6 = 0#6) ∧
  (∀ (r : Bool) (c : CFault), (Response.word (.status r c)).extractLsb' 11 5 = 0#5 ∧
    (Response.word (.status r c)).getLsbD 10 = r ∧
    (Response.word (.status r .cNone)).extractLsb' 8 2 = 0#2 ∧
    (Response.word (.status r .cRank)).extractLsb' 8 2 = 1#2 ∧
    (Response.word (.status r .cColumns)).extractLsb' 8 2 = 2#2 ∧
    (Response.word (.status r c)).extractLsb' 0 8 = 0#8) ∧
  Response.word (.error .eLength) = 0x2000#16 ∧
  Response.word (.error .eIllegal) = 0x4000#16 ∧
  Response.word (.error .eNotReady) = 0x6000#16 ∧
  Response.word (.error .eIndex) = 0x8000#16

/-- R17, R157: `pack` has element 0 as its most significant bit; for a syndrome, `8·S[0] + 4·S[1] + 2·S[2] + S[3]`. -/
def Obligations.PackReadsElementZeroAsMostSignificant : Prop :=
  (∀ (n : Nat) (s : BitVec n),
    pack s = (List.range n).foldl (fun acc i => acc + (s.getMsbD i).toNat * 2 ^ (n - 1 - i)) 0) ∧
  ∀ S : Syndrome, pack S =
    8 * (S.getMsbD 0).toNat + 4 * (S.getMsbD 1).toNat + 2 * (S.getMsbD 2).toNat + (S.getMsbD 3).toNat

/-- R92: a line read back is the instruction it was written from, for every instruction that has a line. -/
def Obligations.ParsedLineIsTheInstruction : Prop :=
  ∀ (i : Instr) (l : Text), i.wellFormed = true → lineText i = some l → parseLine l = some i

/-! The step -/

/-- A step runs the decoded instruction: the host's next event when no unit is pending, else the unit the
counter selects (R86, R93), else nothing.  The port queue and the counter as a held field are the model's choice,
log entries 4 and 7.  In the idle clause R198 gives that the block holds its state; that an idle step changes
nothing is log entry 8, DEDUCED, and that the response field, which is no state of the block (R42), keeps the last
response through it is log entry 5, DESIGN CHOICE. -/
def Obligations.StepRunsTheSelectedInstruction : Prop :=
  (∀ (s : State) (w : CmdWord) (rest : List HostEvent) (i : Instr),
    s.cstep = .done → s.port = .command w :: rest → decode (.command w) = .ok i →
    step s = exec i { s with port := rest }) ∧
  (∀ (s : State) (rest : List HostEvent) (i : Instr),
    s.cstep = .done → s.port = .reset :: rest → decode (.rst true) = .ok i →
    step s = exec i { s with port := rest }) ∧
  (∀ (s : State) (i : Instr), decode (.unit s.cstep.code) = .ok i → step s = exec i s) ∧
  (∀ s : State, s.cstep = .done → s.port = [] → step s = .next s)

/-- A word of the opcode table placed for fetching is the instruction the very next step runs; a unit of the
reset step runs with the counter at its own number.  The model's own interface, log entries 7 and 9. -/
def Obligations.PlacedTableWordRunsNext : Prop :=
  ∀ (s : State) (nbits w : Nat) (i : Instr), s.cstep = .done → decodeTableWord nbits w = some i →
    (i.isCommand = true ∨ i = .construct → step (s.withFetchWord nbits w) = exec i s) ∧
    (i = .reduce → step (s.withFetchWord nbits w) = exec .reduce { s with cstep := .reduce }) ∧
    (i = .derive → step (s.withFetchWord nbits w) = exec .derive { s with cstep := .derive }) ∧
    (i = .build → step (s.withFetchWord nbits w) = exec .build { s with cstep := .build })

/-- R199: no event makes the block hang; a block with state always steps to a block with state. -/
def Obligations.BlockWithStateAlwaysSteps : Prop :=
  ∀ (s : State) (b : Block), s.block = some b → ∃ t b', step s = .next t ∧ t.block = some b'

/-- R210, R213: from before any reset, asserting reset and then reading `STAT` answers the status construction
left. -/
def Obligations.BootThenStatReportsConstruction : Prop :=
  session State.powerOn [.reset, .command 0x600000#24] =
    [none, some (.status (construct Config.seedG).ready (construct Config.seedG).cfault)]

/-! Host access -/

/-- R170. -/
def Obligations.NopAnswersNone : Prop :=
  (∀ (s : State) (b : Block), s.block = some b → exec .nop s = .next (s.answer .none)) ∧
  Response.word .none = 0x0000#16 ∧
  ∀ w : CmdWord, w.extractLsb' 20 4 = 0#4 → decodeCommand w = .nop

/-- R171. -/
def Obligations.StatAnswersReadyAndCfault : Prop :=
  (∀ (s : State) (b : Block), s.block = some b → exec .stat s = .next (s.answer (.status b.ready b.cfault))) ∧
  (∀ b : Block, b.Inv → Response.word (.status b.ready b.cfault) = 0x0400#16 ∨
    Response.word (.status b.ready b.cfault) = 0x0100#16 ∨
    Response.word (.status b.ready b.cfault) = 0x0200#16) ∧
  Response.word (.status true .cNone) = 0x0400#16 ∧ Response.word (.status false .cRank) = 0x0100#16 ∧
  Response.word (.status false .cColumns) = 0x0200#16 ∧
  ∀ w : CmdWord, w.extractLsb' 20 4 = 6#4 → decodeCommand w = .stat

/-- R172. -/
def Obligations.RdgAnswersRowOfG : Prop :=
  (∀ (s : State) (b : Block) (a : Fin 16), s.block = some b →
    (b.ready = false → exec (.rdg a) s = .next (s.answer (.error .eNotReady))) ∧
    (b.ready = true → 5 < a.val → exec (.rdg a) s = .next (s.answer (.error .eIndex))) ∧
    (b.ready = true → a.val ≤ 5 → ∃ r : Row, exec (.rdg a) s = .next (s.answer (.row r)) ∧
      (∀ j < 10, r.getMsbD j = entry b.g a.val j) ∧
      (b.Built → ∀ j < 6, r.getMsbD j = decide (j = a.val)))) ∧
  ∀ w : CmdWord, w.extractLsb' 20 4 = 3#4 → ∃ a : Fin 16, a.val = (w.extractLsb' 16 4).toNat ∧ decodeCommand w = .rdg a

/-- R173. -/
def Obligations.RdhAnswersRowOfH : Prop :=
  (∀ (s : State) (b : Block) (a : Fin 16), s.block = some b →
    (b.ready = false → exec (.rdh a) s = .next (s.answer (.error .eNotReady))) ∧
    (b.ready = true → 3 < a.val → exec (.rdh a) s = .next (s.answer (.error .eIndex))) ∧
    (b.ready = true → a.val ≤ 3 → ∃ r : Row, exec (.rdh a) s = .next (s.answer (.row r)) ∧
      (∀ j < 10, r.getMsbD j = entry b.h a.val j) ∧
      (b.Built → ∀ c < 4, r.getMsbD (6 + c) = decide (c = a.val)))) ∧
  ∀ w : CmdWord, w.extractLsb' 20 4 = 4#4 → ∃ a : Fin 16, a.val = (w.extractLsb' 16 4).toNat ∧ decodeCommand w = .rdh a

/-- R174. -/
def Obligations.RdsAnswersRomEntry : Prop :=
  (∀ (s : State) (b : Block) (a : Fin 16), s.block = some b →
    (b.ready = false → exec (.rds a) s = .next (s.answer (.error .eNotReady))) ∧
    (b.ready = true → exec (.rds a) s = .next (s.answer (.entry b.syn[a.val])))) ∧
  (∀ (s : State) (b : Block), s.block = some b → b.ready = true → b.Built →
    responseTo s (.rds 0) = some (.entry { hit := false, pos := 0 }) ∧
    responseTo s (.rds 8) = some (.entry { hit := true, pos := 6 }) ∧
    responseTo s (.rds 4) = some (.entry { hit := true, pos := 7 }) ∧
    responseTo s (.rds 2) = some (.entry { hit := true, pos := 8 }) ∧
    responseTo s (.rds 1) = some (.entry { hit := true, pos := 9 })) ∧
  Response.word (.entry { hit := false, pos := 0 }) = 0x0000#16 ∧
  Response.word (.entry { hit := true, pos := 0 }) = 0x0400#16 ∧
  ∀ w : CmdWord, w.extractLsb' 20 4 = 5#4 → ∃ a : Fin 16, a.val = (w.extractLsb' 16 4).toNat ∧ decodeCommand w = .rds a

/-- R85, R183: a word with `op` from 7 to 15 answers `E_ILLEGAL`, ready or failed alike, and changes nothing. -/
def Obligations.ReservedCodesAnswerIllegal : Prop :=
  (∀ (s : State) (b : Block), s.block = some b →
    exec .reserved7 s = .next (s.answer (.error .eIllegal)) ∧
    ∀ low : Fin 8, exec (.reserved8to15 low) s = .next (s.answer (.error .eIllegal))) ∧
  ∀ (s : State) (b : Block) (w : CmdWord), s.block = some b → 7 ≤ (w.extractLsb' 20 4).toNat →
    exec (decodeCommand w) s = .next (s.answer (.error .eIllegal))

/-! The encoder -/

/-- R142, R143: every bit of the codeword, in both of the rule's forms. -/
def Obligations.EncAnswersCodeword : Prop :=
  ∀ (s : State) (b : Block) (d : BitSeq), s.block = some b → b.ready = true → d.length = 6 →
    ∃ c : Codeword, exec (.enc d) s = .next (s.answer (.codeword c)) ∧
      (∀ j < 10, c.getMsbD j =
        ((d.getD 0 false && entry b.g 0 j) ^^ (d.getD 1 false && entry b.g 1 j) ^^
         (d.getD 2 false && entry b.g 2 j) ^^ (d.getD 3 false && entry b.g 3 j) ^^
         (d.getD 4 false && entry b.g 4 j) ^^ (d.getD 5 false && entry b.g 5 j))) ∧
      firstBits 10 c =
        (List.range 6).foldl (fun acc i => if d.getD i false then acc ^^^ rowOf b.g i else acc) 0#10 ∧
      c.getMsbD 10 =
        (c.getMsbD 0 ^^ c.getMsbD 1 ^^ c.getMsbD 2 ^^ c.getMsbD 3 ^^ c.getMsbD 4 ^^
         c.getMsbD 5 ^^ c.getMsbD 6 ^^ c.getMsbD 7 ^^ c.getMsbD 8 ^^ c.getMsbD 9)

/-- R141, R145 (a), (d): a wrong length is `E_LENGTH`, a failed block is `E_NOTREADY` whatever the length. -/
def Obligations.EncLengthAndReadinessErrors : Prop :=
  ∀ (s : State) (b : Block) (d : BitSeq), s.block = some b → d.length ≤ 15 →
    (b.ready = true → d.length ≠ 6 → exec (.enc d) s = .next (s.answer (.error .eLength))) ∧
    (b.ready = false → exec (.enc d) s = .next (s.answer (.error .eNotReady)))

/-- R144: the seven properties of the codewords of a ready block. -/
def Obligations.CodewordProperties : Prop :=
  ∀ (s : State) (b : Block), s.block = some b → b.ready = true → b.Built →
    (∀ (d : DataWord) (c : Codeword), responseTo s (.enc (elems d)) = some (.codeword c) →
      (∀ j < 6, c.getMsbD j = d.getMsbD j) ∧
      (∀ t < 4, c.getMsbD (6 + t) = xorBelow (fun i => d.getMsbD i && entry b.g i (6 + t)) 6) ∧
      (∀ j < 4, dot (rowOf b.h j) (firstBits 10 c) = false) ∧
      xsum c = false) ∧
    (∀ (d e : DataWord) (c f : Codeword), responseTo s (.enc (elems d)) = some (.codeword c) →
      responseTo s (.enc (elems e)) = some (.codeword f) →
      responseTo s (.enc (elems (d ^^^ e))) = some (.codeword (c ^^^ f)) ∧
      (d ≠ e → c ≠ f ∧ 4 ≤ distance c f)) ∧
    responseTo s (.enc (elems 0#6)) = some (.codeword 0#11)

/-! The decoder -/

/-- R152 to R155: the split of the received word `hp ++ [rp]` and the conditions computed from it. -/
def Obligations.DecConditions : Prop :=
  (∀ (hp : Row) (rp : Bool), hammingPart (hp.concat rp) = hp ∧ receivedParity (hp.concat rp) = rp ∧
    receivedOperand (elems hp ++ [rp]) = hp.concat rp) ∧
  (∀ (hp : Row) (rp : Bool), parityError (hp.concat rp) = (xsum hp != rp) ∧
    parityError (hp.concat rp) = xsum (hp.concat rp) ∧
    (parityError (hp.concat rp) = true ↔
      ((List.range 11).filter fun j => (hp.concat rp).getMsbD j).length % 2 = 1)) ∧
  (∀ (H : Mat 4 10) (hp : Row), (∀ i < 4, (syndrome H hp).getMsbD i = dot (rowOf H i) hp) ∧
    (synZero (syndrome H hp) = true ↔ ∀ i < 4, dot (rowOf H i) hp = false) ∧
    syndrome H hp = (List.range 10).foldl (fun acc j => if hp.getMsbD j then acc ^^^ col H j else acc) 0#4)

/-- R159, R160: zero syndrome.  `VALID` is answered for the valid codewords of a ready block and for nothing
else, and flipping the parity bit alone of a codeword is corrected without touching the data word. -/
def Obligations.DecZeroSyndromeOutcomes : Prop :=
  ∀ (s : State) (b : Block), s.block = some b → b.ready = true →
    (∀ (hp : Row) (rp : Bool), (∀ i < 4, dot (rowOf b.h i) hp = false) →
      (xsum hp = rp → exec (.dec (elems hp ++ [rp])) s = .next (s.answer (.decoded (firstBits 6 hp) .valid))) ∧
      (xsum hp ≠ rp →
        exec (.dec (elems hp ++ [rp])) s = .next (s.answer (.decoded (firstBits 6 hp) .corrected)))) ∧
    (b.Built → ∀ w : Codeword,
      ((∃ d, responseTo s (.dec (elems w)) = some (.decoded d .valid)) ↔ ValidCodeword b.g w) ∧
      (ValidCodeword b.g w →
        responseTo s (.dec (elems w)) = some (.decoded (firstBits 6 w) .valid) ∧
        responseTo s (.dec (elems (flipAt 10 w))) = some (.decoded (firstBits 6 w) .corrected)))

/-- R161, with R157's address: nonzero syndrome and a parity error. -/
def Obligations.DecTableLookupOutcomes : Prop :=
  ∀ (s : State) (b : Block) (hp : Row) (rp : Bool) (S : Syndrome), s.block = some b → b.ready = true →
    (∀ i < 4, S.getMsbD i = dot (rowOf b.h i) hp) → S ≠ 0#4 → xsum hp ≠ rp →
    ((b.syn[S.toNat]'S.isLt).hit = true → ∃ d : DataWord,
      exec (.dec (elems hp ++ [rp])) s = .next (s.answer (.decoded d .corrected)) ∧
      ∀ j < 6, d.getMsbD j = (hp.getMsbD j ^^ decide (j = (b.syn[S.toNat]'S.isLt).pos.toNat))) ∧
    ((b.syn[S.toNat]'S.isLt).hit = false → exec (.dec (elems hp ++ [rp])) s = .next (s.answer .uncorrectable))

/-- R162: nonzero syndrome and no parity error; `SYN` is not consulted. -/
def Obligations.DecDoubleErrorOutcome : Prop :=
  ∀ (s : State) (b : Block) (hp : Row) (rp : Bool), s.block = some b → b.ready = true →
    (∃ i < 4, dot (rowOf b.h i) hp = true) → xsum hp = rp →
    exec (.dec (elems hp ++ [rp])) s = .next (s.answer .uncorrectable)

/-- R151, R169 (a), (f). -/
def Obligations.DecLengthAndReadinessErrors : Prop :=
  ∀ (s : State) (b : Block) (r : BitSeq), s.block = some b → r.length ≤ 15 →
    (b.ready = true → r.length ≠ 11 → exec (.dec r) s = .next (s.answer (.error .eLength))) ∧
    (b.ready = false → exec (.dec r) s = .next (s.answer (.error .eNotReady)))

/-- R166: round trip and single-bit correction on every ready block, with no received word reached twice. -/
def Obligations.RoundTripAndSingleFlipCorrection : Prop :=
  ∀ (s : State) (b : Block), s.block = some b → b.ready = true → b.Built →
    (∀ d : DataWord, ∃ c : Codeword, responseTo s (.enc (elems d)) = some (.codeword c) ∧
      responseTo s (.dec (elems c)) = some (.decoded d .valid) ∧
      ∀ i < 11, responseTo s (.dec (elems (flipAt i c))) = some (.decoded d .corrected)) ∧
    (∀ (d e : DataWord) (c f : Codeword), responseTo s (.enc (elems d)) = some (.codeword c) →
      responseTo s (.enc (elems e)) = some (.codeword f) →
      ∀ i < 11, ∀ j < 11, flipAt i c ≠ f ∧ (flipAt i c = flipAt j f → d = e ∧ i = j))

/-- R167: all 55 double flips of every codeword of a ready block are detected. -/
def Obligations.DoubleFlipsAreDetected : Prop :=
  ∀ (s : State) (b : Block), s.block = some b → b.ready = true → b.Built →
    ∀ (d : DataWord) (c : Codeword), responseTo s (.enc (elems d)) = some (.codeword c) →
      ∀ i j : Nat, i < j → j < 11 →
        responseTo s (.dec (elems (flipAt j (flipAt i c)))) = some .uncorrectable

/-- R168: how the 2048 received words divide on every ready block. -/
def Obligations.DecoderCensus : Prop :=
  ∀ (s : State) (b : Block), s.block = some b → b.ready = true → b.Built →
    countWords (fun w => zeroSyndrome b w && !parityError w) = 64 ∧
    countWords (fun w => zeroSyndrome b w && parityError w) = 64 ∧
    countWords (fun w => !zeroSyndrome b w && parityError w && tableHit b w) = 640 ∧
    countWords (fun w => !zeroSyndrome b w && parityError w && !tableHit b w) = 320 ∧
    countWords (fun w => !zeroSyndrome b w && !parityError w) = 960 ∧
    countWords (fun w => match responseTo s (.dec (elems w)) with
      | some (.decoded _ .valid) => true | _ => false) = 64 ∧
    countWords (fun w => match responseTo s (.dec (elems w)) with
      | some (.decoded _ .corrected) => true | _ => false) = 704 ∧
    countWords (fun w => match responseTo s (.dec (elems w)) with
      | some .uncorrectable => true | _ => false) = 1280 ∧
    ∀ (S : Syndrome) (rp : Bool), countWords (fun w => syndrome b.h (hammingPart w) == S && w.getMsbD 10 == rp) = 64

/-- R163: the miss branch is live, and no word that takes it is within two flips of a codeword. -/
def Obligations.MissBranchIsFarFromCodewords : Prop :=
  ∀ b : Block, b.Built →
    (∀ S : Syndrome, ((List.range 1024).filter fun h => syndrome b.h (BitVec.ofNat 10 h) == S).length = 64) ∧
    ((List.finRange 16).filter fun a => a.val != 0 && !(b.syn[a.val]).hit).length = 5 ∧
    countWords (fun w => !zeroSyndrome b w && parityError w && !tableHit b w) = 320 ∧
    ∀ w c : Codeword, zeroSyndrome b w = false → parityError w = true → tableHit b w = false →
      ValidCodeword b.g c → 3 ≤ distance w c

/-- R164: the syndrome and the parity error of `c ^ e` depend on the error pattern alone. -/
def Obligations.SyndromeAndParityOfAnErrorPattern : Prop :=
  ∀ (b : Block) (c e : Codeword), b.Built → ValidCodeword b.g c →
    syndrome b.h (hammingPart (c ^^^ e)) =
      (List.range 10).foldl (fun acc p => if e.getMsbD p then acc ^^^ col b.h p else acc) 0#4 ∧
    (parityError (c ^^^ e) = true ↔ ((List.range 11).filter fun p => e.getMsbD p).length % 2 = 1)

/-- R169 (c), (d), (e): outcomes that hold for every seed. -/
def Obligations.SeedIndependentDecodes : Prop :=
  ∀ (s : State) (b : Block), s.block = some b → b.ready = true → b.Built →
    responseTo s (.dec (elems 0b00000000000#11)) = some (.decoded 0#6 .valid) ∧
    responseTo s (.dec (elems 0b00000000001#11)) = some (.decoded 0#6 .corrected) ∧
    responseTo s (.dec (elems 0b00000010000#11)) = some (.decoded 0#6 .corrected) ∧
    responseTo s (.dec (elems 0b00000001000#11)) = some (.decoded 0#6 .corrected) ∧
    responseTo s (.dec (elems 0b00000000100#11)) = some (.decoded 0#6 .corrected) ∧
    responseTo s (.dec (elems 0b00000000010#11)) = some (.decoded 0#6 .corrected)

/-! Errors, frames and refusals -/

/-- R182, R188: exactly which command error each command answers, in the order of the checks. -/
def Obligations.CommandErrorsAndTheirPriority : Prop :=
  ∀ (s : State) (b : Block) (i : Instr) (e : CmdError), s.block = some b → i.isCommand = true →
    i.wellFormed = true →
    (responseTo s i = some (.error e) ↔
      (e = .eIllegal ∧ (i = .reserved7 ∨ ∃ low, i = .reserved8to15 low)) ∨
      (e = .eNotReady ∧ b.ready = false ∧
        ((∃ d, i = .enc d) ∨ (∃ d, i = .dec d) ∨ (∃ a, i = .rdg a) ∨ (∃ a, i = .rdh a) ∨ ∃ a, i = .rds a)) ∨
      (e = .eLength ∧ b.ready = true ∧
        ((∃ d, i = .enc d ∧ d.length ≠ 6) ∨ ∃ d, i = .dec d ∧ d.length ≠ 11)) ∨
      (e = .eIndex ∧ b.ready = true ∧
        ((∃ a : Fin 16, i = .rdg a ∧ 5 < a.val) ∨ ∃ a : Fin 16, i = .rdh a ∧ 3 < a.val)))

/-- R31: a command that has a meaning changes no state; the response port shows its answer. -/
def Obligations.CommandsWriteNoState : Prop :=
  ∀ (s t : State) (w : CmdWord), exec (decodeCommand w) s = .next t →
    t.block = s.block ∧ t.cstep = s.cstep ∧ t.port = s.port ∧ ∃ r, t.rsp = some r

/-- R44: before the first reset a command has no meaning; the model refuses it. -/
def Obligations.CommandsBeforeFirstResetAreRefused : Prop :=
  State.powerOn.block = none ∧
  ∀ (s : State) (w : CmdWord), s.block = none → exec (decodeCommand w) s = .refused .beforeFirstReset

/-- U12, D9: no command word carries more than 15 elements, and a longer operand has no meaning. -/
def Obligations.LongOperandsAreNotPresentable : Prop :=
  (∀ w : CmdWord, (decodeCommand w).wellFormed = true) ∧
  ∀ (s : State) (d : BitSeq), 15 < d.length →
    exec (.enc d) s = .refused .notPresentable ∧ exec (.dec d) s = .refused .notPresentable

/-- R46: after a failed construction the tables are unreadable, so no response depends on them. -/
def Obligations.FailedTablesAreUnreadable : Prop :=
  ∀ (s t : State) (b c : Block) (i : Instr), s.block = some b → t.block = some c →
    b.ready = false → c.ready = false → b.cfault = c.cfault → i.isCommand = true →
    responseTo s i = responseTo t i

/-- R43: `ENC` never reads `H` or `SYN`; `DEC` never reads `G`. -/
def Obligations.EncAndDecReadSets : Prop :=
  ∀ (s t : State) (b c : Block) (d : BitSeq), s.block = some b → t.block = some c → b.ready = c.ready →
    (b.g = c.g → responseTo s (.enc d) = responseTo t (.enc d)) ∧
    (b.h = c.h → b.syn = c.syn → responseTo s (.dec d) = responseTo t (.dec d))

/-- R68, R42: each command is answered as if it were the only one ever sent. -/
def Obligations.ResponsesDoNotDependOnHistory : Prop :=
  ∀ (s : State) (b : Block) (ws : List CmdWord), s.block = some b → s.cstep = .done →
    session s (ws.map .command) = ws.map fun w => responseTo s (decodeCommand w)

/-- R175: the read commands recover the whole state of a ready block. -/
def Obligations.ReadCommandsRecoverTheBlock : Prop :=
  ∀ (s t : State) (b c : Block), s.block = some b → t.block = some c → b.ready = true →
    (∀ a : Fin 16, responseTo s (.rdg a) = responseTo t (.rdg a) ∧ responseTo s (.rdh a) = responseTo t (.rdh a) ∧
      responseTo s (.rds a) = responseTo t (.rds a)) →
    responseTo s .stat = responseTo t .stat → b = c

/-! The reset step -/

/-- R126: what `CONSTRUCT` ends in for every seed, and that the reset step writes exactly that.  That the response
field is empty after it and `cstep` is done are the model's own, log entries 5 and 7. -/
def Obligations.ConstructBuildsInOrder : Prop :=
  (∀ s : State, exec .construct s =
    .next { s with block := some (construct Config.seedG), cstep := .done, rsp := none }) ∧
  ∀ seed : Mat 6 10,
    (reduceMatrix seed = none → (construct seed).ready = false ∧ (construct seed).cfault = .cRank) ∧
    (∀ G, reduceMatrix seed = some G →
      (buildTable 4 (deriveMatrix 6 4 G) = none →
        (construct seed).ready = false ∧ (construct seed).cfault = .cColumns) ∧
      (∀ T, buildTable 4 (deriveMatrix 6 4 G) = some T →
        construct seed = { g := G, h := deriveMatrix 6 4 G, syn := T, ready := true, cfault := .cNone }))

/-- R113, R116, R187: the `REDUCE` unit on a block with state runs on `SEED_G`, and what it leaves for each
seed.  The unit as a step of its own and the empty response field are the model's choice, log entries 7 and 5. -/
def Obligations.ReduceUnitWritesG : Prop :=
  ∀ (s : State) (b : Block), s.block = some b → ∃ after : Mat 6 10 → State,
    exec .reduce s = .next (after Config.seedG) ∧
    ∀ seed : Mat 6 10, (after seed).port = s.port ∧ (after seed).rsp = none ∧
      (∀ G, reduceMatrix seed = some G →
        (after seed).block = some { b with g := G } ∧ (after seed).cstep = .derive) ∧
      (reduceMatrix seed = none → (after seed).cstep = .done ∧
        ∃ b', (after seed).block = some b' ∧ b'.ready = false ∧ b'.cfault = .cRank)

/-- R121: the `DERIVE` unit writes `H = [Pᵗ | I_4]` and nothing else of the block.  The unit as a step of its
own and the empty response field are the model's choice, log entries 7 and 5. -/
def Obligations.DeriveUnitWritesH : Prop :=
  ∀ (s : State) (b : Block), s.block = some b → ∃ t H, exec .derive s = .next t ∧ t.port = s.port ∧ t.rsp = none ∧
    t.cstep = .build ∧ t.block = some { b with h := H } ∧
    (∀ j < 4, ∀ i < 6, entry H j i = entry b.g i (6 + j)) ∧
    (∀ j < 4, ∀ c < 4, entry H j (6 + c) = decide (c = j))

/-- R123, R124, R187: the `BUILD` unit writes `SYN` and nothing else of the block, or takes the column fault.
The unit as a step of its own and the empty response field are the model's choice, log entries 7 and 5. -/
def Obligations.BuildUnitWritesSyn : Prop :=
  ∀ (s : State) (b : Block), s.block = some b → ∃ t, exec .build s = .next t ∧ t.port = s.port ∧ t.rsp = none ∧
    t.cstep = .done ∧
    (((∀ c : Fin 10, col b.h c ≠ 0#4) ∧ (∀ c d : Fin 10, col b.h c = col b.h d → c = d)) →
      ∃ T, t.block = some { b with syn := T } ∧ IsSyndromeTableOf b.h T) ∧
    (((∃ c : Fin 10, col b.h c = 0#4) ∨ (∃ c d : Fin 10, c ≠ d ∧ col b.h c = col b.h d)) →
      ∃ b', t.block = some b' ∧ b'.ready = false ∧ b'.cfault = .cColumns)

/-- R86, R126: the atomic reset step is its three units run in the order Reducer, Derivator, Table Builder from
`ready <- 0`, and then `ready <- 1`; a construction fault ends it at once.  Running a unit as a step of its own
is the model's choice, log entry 7, and so are the values that begin it, log entries 2 and 15. -/
def Obligations.ResetStepIsItsUnitsInOrder : Prop :=
  ∀ s : State, ∃ (n : Nat) (t : State) (b : Block), 1 ≤ n ∧ n ≤ 3 ∧
    Host.Core.run Sys2Proof.core n ({ s with block := some (beginConstruct Config.seedG), cstep := .reduce } : State)
      = .next t ∧ t.cstep = .done ∧ t.block = some b ∧
    ((ConstructOK Config.seedG ∧ n = 3 ∧ exec .construct s = .next { t with block := some (finishConstruct b) }) ∨
     (¬ ConstructOK Config.seedG ∧ exec .construct s = .next t))

/-- R31, R45, R212: once a reset step has run, no command and no further reset step changes the block. -/
def Obligations.BlockNeverChangesAfterReset : Prop :=
  State.reset.block = some (construct Config.seedG) ∧
  ∀ s t : State, s.cstep = .done → s.block = some (construct Config.seedG) → step s = .next t →
    t.cstep = .done ∧ t.block = some (construct Config.seedG)

/-! Invariants -/

/-- R32 to R35, R45: the invariant holds right after reset. -/
def Obligations.ResetSatisfiesTheInvariant : Prop :=
  State.reset.Inv

/-- R32 to R35, R210: every step from a state that meets the invariant, reached or not, keeps it. -/
def Obligations.EveryStepKeepsTheInvariant : Prop :=
  ∀ s t : State, s.Inv → step s = .next t → t.Inv

/-! Construction over every matrix -/

/-- R110: the two row primitives. -/
def Obligations.RowPrimitivesExchangeAndXorRows : Prop :=
  ∀ (k n : Nat) (M : Mat k n) (i j : Nat), i < k → j < k → i ≠ j →
    (rowOf (rswap M i j) i = rowOf M j ∧ rowOf (rswap M i j) j = rowOf M i ∧
      ∀ r < k, r ≠ i → r ≠ j → rowOf (rswap M i j) r = rowOf M r) ∧
    (rowOf (rxor M j i) j = rowOf M j ^^^ rowOf M i ∧ ∀ r < k, r ≠ j → rowOf (rxor M j i) r = rowOf M r) ∧
    rswap (rswap M i j) i j = M ∧ rxor (rxor M j i) j i = M ∧ rswap M i i = M ∧
    ∀ w : BitVec n, (InRowSpace (rswap M i j) w ↔ InRowSpace M w) ∧ (InRowSpace (rxor M j i) w ↔ InRowSpace M w)

/-- R114, R116: the pivot search takes the least row below with a 1 in the column and fails only if there is
none; no exchange is made when the pivot is already 1. -/
def Obligations.PivotSearchTakesTheLeastRow : Prop :=
  ∀ (k n : Nat) (M : Mat k n) (i : Nat), i < k →
    (∀ p, pivotRow M i = some p ↔
      i < p ∧ p < k ∧ entry M p i = true ∧ ∀ j, i < j → j < p → entry M j i = false) ∧
    (entry M i i = true → securePivot M i = some M) ∧
    (entry M i i = false → ∀ p, pivotRow M i = some p → securePivot M i = some (rswap M i p)) ∧
    (securePivot M i = none ↔ entry M i i = false ∧ ∀ j, i < j → j < k → entry M j i = false)

/-- R115: after column `i` of the forward pass the column is 1 at its pivot and 0 below, rows above are
untouched; after the whole pass the left block is upper triangular with an all-ones diagonal. -/
def Obligations.ForwardPassClearsBelowThePivots : Prop :=
  (∀ (k n : Nat) (M N : Mat k n) (i : Nat), i < k → forwardColumn M i = some N →
    entry N i i = true ∧ (∀ j, i < j → j < k → entry N j i = false) ∧ ∀ j < i, rowOf N j = rowOf M j) ∧
  ∀ (k n : Nat) (M N : Mat k n), forwardPass M = some N →
    ∀ i < k, entry N i i = true ∧ ∀ j, i < j → j < k → entry N j i = false

/-- R119: what `REDUCE` returns is the one row-equivalent matrix with the identity on the left, `A⁻¹ · seed`. -/
def Obligations.ReduceReturnsTheSystematicForm : Prop :=
  ∀ (k n : Nat) (seed G : Mat k n), k ≤ n → reduceMatrix seed = some G →
    IsSystematic G ∧ (∀ w, InRowSpace G w ↔ InRowSpace seed w) ∧
    (∀ M : Mat k n, IsSystematic M → (∀ w, InRowSpace M w ↔ InRowSpace seed w) → M = G) ∧
    ∃ B : Mat k k, matMul B (leftBlock k seed) = identity k ∧ matMul (leftBlock k seed) B = identity k ∧
      G = matMul B seed

/-- R118: `REDUCE` succeeds exactly when the leftmost `k × k` block is invertible; dependent rows always
fault, and so do the rule's two inputs of full row rank. -/
def Obligations.ReduceSucceedsExactlyWhenLeftBlockIsInvertible : Prop :=
  (∀ (k n : Nat) (seed : Mat k n), k ≤ n →
    ((∃ G, reduceMatrix seed = some G) ↔ Invertible (leftBlock k seed)) ∧
    ((∃ x : BitVec k, x ≠ 0#k ∧ vecMul x seed = 0#n) → reduceMatrix seed = none)) ∧
  reduceMatrix (#v[0b110#3, 0b111#3] : Mat 2 3) = none ∧
  reduceMatrix (#v[0b001#3, 0b010#3] : Mat 2 3) = none

/-- R119's corner cases: a systematic input is returned unchanged, reducing twice is reducing once, and the
order of the input's rows does not matter. -/
def Obligations.ReduceIgnoresRowOrder : Prop :=
  ∀ (k n : Nat) (seed : Mat k n), k ≤ n →
    (IsSystematic seed → reduceMatrix seed = some seed) ∧
    (∀ G, reduceMatrix seed = some G → reduceMatrix G = some G) ∧
    ∀ σ : Equiv.Perm (Fin k), reduceMatrix (Vector.ofFn fun i => seed[σ i]) = reduceMatrix seed

/-- R122: `G·Hᵗ = 0`; `H` has rank `r`; the sequences with zero syndrome are exactly the `2^k` of the row space. -/
def Obligations.DeriveIsOrthogonalToG : Prop :=
  ∀ (k r : Nat) (G : Mat k (k + r)), IsSystematic G →
    (∀ i < k, ∀ j < r, dot (rowOf G i) (rowOf (deriveMatrix k r G) j) = false) ∧
    (∀ y : BitVec r, vecMul y (deriveMatrix k r G) = 0#(k + r) → y = 0#r) ∧
    (∀ w : BitVec (k + r), (∀ j < r, dot (rowOf (deriveMatrix k r G) j) w = false) ↔ InRowSpace G w) ∧
    ∀ x y : BitVec k, vecMul x G = vecMul y G → x = y

/-- R123, R124: `BUILD` faults exactly on a zero or repeated column, and otherwise maps each column to its
index and misses everywhere else; the index is the whole `pos` where `p` bits hold every index (4 do in the block). -/
def Obligations.BuildMapsColumnsOrFaults : Prop :=
  ∀ (r n p : Nat) (H : Mat r n),
    (buildTable p H = none ↔ (∃ c : Fin n, col H c = 0#r) ∨ ∃ c d : Fin n, c ≠ d ∧ col H c = col H d) ∧
    ∀ T, buildTable p H = some T →
      (∀ c : Fin n, lookup T (col H c) = { hit := true, pos := BitVec.ofNat p c.val }) ∧
      (n ≤ 2 ^ p → ∀ c : Fin n, (lookup T (col H c)).pos.toNat = c.val) ∧
      ∀ S : BitVec r, (∀ c : Fin n, col H c ≠ S) → lookup T S = { hit := false, pos := 0 }

/-- R125: what the table of a built block holds (no `pos` above 9, R34), and when `BUILD` succeeds in terms of the rows of `P`. -/
def Obligations.SyndromeTableContents : Prop :=
  (∀ b : Block, b.Built →
    ((List.finRange 16).filter fun a => (b.syn[a.val]).hit).length = 10 ∧
    b.syn[0] = { hit := false, pos := 0 } ∧
    (∀ c : Fin 10, b.syn[(col b.h c).toNat]'(col b.h c).isLt = { hit := true, pos := BitVec.ofNat 4 c.val }) ∧
    (∀ a : Fin 16, (b.syn[a.val]).hit = true → (col b.h (b.syn[a.val]).pos.toNat).toNat = a.val) ∧
    (∀ a : Fin 16, (b.syn[a.val]).pos.toNat ≤ 9) ∧
    b.syn[8] = { hit := true, pos := 6 } ∧ b.syn[4] = { hit := true, pos := 7 } ∧
    b.syn[2] = { hit := true, pos := 8 } ∧ b.syn[1] = { hit := true, pos := 9 } ∧
    ∀ c : Fin 6, lookup b.syn (parityRow b.g c.val) = { hit := true, pos := BitVec.ofNat 4 c.val }) ∧
  ∀ G : Mat 6 10, (∃ T, buildTable 4 (deriveMatrix 6 4 G) = some T) ↔
    (∀ i < 6, HasTwoOnes (parityRow G i)) ∧ ∀ i < 6, ∀ j < 6, parityRow G i = parityRow G j → i = j

/-- R127: the two predicates on the seed are the same, and which fault a seed outside them gives. -/
def Obligations.SeedOkIsConstructOk : Prop :=
  (∀ seed : Mat 6 10, (SeedOK seed ↔ ConstructOK seed) ∧
    (¬ Invertible (leftBlock 6 seed) → (construct seed).cfault = .cRank) ∧
    (Invertible (leftBlock 6 seed) → ¬ SeedOK seed → (construct seed).cfault = .cColumns)) ∧
  ∃ seed : Mat 6 10, SeedOK seed

/-- R128: what a ready block guarantees, for every seed. -/
def Obligations.ReadyBlockGuarantees : Prop :=
  ∀ seed : Mat 6 10, (construct seed).ready = true →
    IsSystematic (construct seed).g ∧
    (∀ i < 6, ∀ j < 4, dot (rowOf (construct seed).g i) (rowOf (construct seed).h j) = false) ∧
    (∀ c : Fin 10, col (construct seed).h c ≠ 0#4) ∧
    (∀ c d : Fin 10, col (construct seed).h c = col (construct seed).h d → c = d) ∧
    (∀ c : Fin 10, lookup (construct seed).syn (col (construct seed).h c) = { hit := true, pos := BitVec.ofNat 4 c.val }) ∧
    (∀ S : Syndrome, (∀ c : Fin 10, col (construct seed).h c ≠ S) → (lookup (construct seed).syn S).hit = false) ∧
    (∀ w : Row, w ≠ 0#10 → distance w 0#10 ≤ 2 → syndrome (construct seed).h w ≠ 0#4) ∧
    ∀ w : Row, InRowSpace (construct seed).g w → w ≠ 0#10 → 3 ≤ distance w 0#10

/-- R128: every ready block that construction can leave is a built one, so that the statements above hold of it. -/
def Obligations.ReadyConstructionIsBuilt : Prop :=
  ∀ seed : Mat 6 10, ConstructOK seed → (construct seed).Built

/-- R176: the matrix invariants as the host sees them through the read commands. -/
def Obligations.MatrixInvariantsThroughThePort : Prop :=
  ∀ (s : State) (b : Block), s.block = some b → b.ready = true → b.Built →
    ∃ (g : Fin 6 → Row) (h : Fin 4 → Row),
      (∀ i : Fin 6, responseTo s (.rdg (i.castLE (Nat.le_add_right 6 10))) = some (.row (g i))) ∧
      (∀ j : Fin 4, responseTo s (.rdh (j.castLE (Nat.le_add_right 4 12))) = some (.row (h j))) ∧
      (∀ i : Fin 6, ∀ p < 6, (g i).getMsbD p = decide (p = i.val)) ∧
      (∀ (i : Fin 6) (j : Fin 4), dot (g i) (h j) = false) ∧
      (∀ (c : Fin 10) (a : Fin 16),
        a.val = 8 * ((h 0).getMsbD c).toNat + 4 * ((h 1).getMsbD c).toNat + 2 * ((h 2).getMsbD c).toNat +
          ((h 3).getMsbD c).toNat →
        responseTo s (.rds a) = some (.entry { hit := true, pos := BitVec.ofNat 4 c.val })) ∧
      ((List.finRange 16).filter fun a => match responseTo s (.rds a) with
        | some (.entry e) => e.hit | _ => false).length = 10
end

