-- ==== Sys2Proof/Laws/Bits.lean ====
section
/-! SUPPORT. The elements of each sequence operation, and the linearity of `xsum` and `dot`. -/

namespace Sys2Proof

/-- Two sequences with the same elements are equal. -/
theorem eq_of_elements {n : Nat} {s t : BitVec n} (h : ∀ j < n, s.getMsbD j = t.getMsbD j) : s = t := by
  apply BitVec.eq_of_getMsbD_eq
  exact h

@[simp] theorem getMsbD_ofElems (n : Nat) (f : Nat → Bool) (j : Nat) :
    (ofElems n f).getMsbD j = (decide (j < n) && f j) := by
  induction n generalizing f j with
  | zero => simp [ofElems]
  | succ n ih =>
    by_cases hj : j < n + 1
    · cases j with
      | zero => simp [ofElems, BitVec.getElem_cons, BitVec.getMsbD_eq_getLsbD]
      | succ j =>
        have hlt : j < n := by omega
        have h := ih (fun j => f (j + 1)) j
        have hne : n - (j + 1) ≠ n := by omega
        simp only [BitVec.getMsbD_eq_getLsbD] at h
        simp only [ofElems, BitVec.getMsbD_eq_getLsbD, BitVec.getLsbD_cons]
        have e : n + 1 - 1 - (j + 1) = n - 1 - j := by omega
        rw [e, if_neg (by omega)]
        simpa [hlt, hj] using h
    · simp [BitVec.getMsbD_eq_getLsbD, hj]

theorem getMsbD_of_ge {n : Nat} (s : BitVec n) {j : Nat} (h : n ≤ j) : s.getMsbD j = false := by
  simp [BitVec.getMsbD_eq_getLsbD, Nat.not_lt.mpr h]

/-- A sequence is determined by the elements it was built from. -/
theorem ofElems_getMsbD {n : Nat} (s : BitVec n) : ofElems n s.getMsbD = s :=
  eq_of_elements fun j hj => by simp [hj]

theorem ofElems_congr {n : Nat} {f g : Nat → Bool} (h : ∀ j < n, f j = g j) : ofElems n f = ofElems n g :=
  eq_of_elements fun j hj => by simp [hj, h j hj]

@[simp] theorem getMsbD_firstBits {n : Nat} (m : Nat) (s : BitVec n) (j : Nat) :
    (firstBits m s).getMsbD j = (decide (j < m) && s.getMsbD j) := by
  simp [firstBits]

@[simp] theorem getMsbD_flipAt {n : Nat} (p : Nat) (s : BitVec n) (j : Nat) :
    (flipAt p s).getMsbD j = (decide (j < n) && (s.getMsbD j ^^ (j == p))) := by
  simp [flipAt]

/-- Flipping a position twice restores the sequence. -/
theorem flipAt_flipAt {n : Nat} (p : Nat) (s : BitVec n) : flipAt p (flipAt p s) = s :=
  eq_of_elements fun j hj => by simp [hj]

@[simp] theorem getMsbD_seqWord (n : Nat) (s : BitSeq) (j : Nat) :
    (seqWord n s).getMsbD j = (decide (j < n) && s.getD j false) := by
  simp [seqWord]

@[simp] theorem length_elems {n : Nat} (s : BitVec n) : (elems s).length = n := by
  simp [elems]

@[simp] theorem getD_elems {n : Nat} (s : BitVec n) (j : Nat) :
    (elems s).getD j false = s.getMsbD j := by
  by_cases h : j < n
  · simp [elems, h]
  · simp [elems, h, getMsbD_of_ge s (Nat.le_of_not_lt h)]

/-- Presenting the elements of a word presents the word. -/
@[simp] theorem seqWord_elems {n : Nat} (s : BitVec n) : seqWord n (elems s) = s :=
  eq_of_elements fun j hj => by rw [getMsbD_seqWord, getD_elems]; simp [hj]

theorem xorBelow_congr {f g : Nat → Bool} {n : Nat} (h : ∀ j < n, f j = g j) : xorBelow f n = xorBelow g n := by
  induction n with
  | zero => rfl
  | succ n ih => rw [xorBelow, xorBelow, ih fun j hj => h j (by omega), h n (by omega)]

theorem xorBelow_xor (f g : Nat → Bool) (n : Nat) :
    xorBelow (fun j => f j ^^ g j) n = (xorBelow f n ^^ xorBelow g n) := by
  induction n with
  | zero => rfl
  | succ n ih =>
    rw [xorBelow, xorBelow, xorBelow, ih]
    cases xorBelow f n <;> cases xorBelow g n <;> cases f n <;> cases g n <;> rfl

@[simp] theorem xorBelow_false (n : Nat) : xorBelow (fun _ => false) n = false := by
  induction n with
  | zero => rfl
  | succ n ih => rw [xorBelow, ih]; rfl

/-- The sum of a function that is 1 at one place only. -/
theorem xorBelow_single (f : Nat → Bool) (p n : Nat) (h : ∀ j < n, j ≠ p → f j = false) :
    xorBelow f n = (decide (p < n) && f p) := by
  induction n with
  | zero => rfl
  | succ n ih =>
    rw [xorBelow, ih fun j hj hne => h j (by omega) hne]
    by_cases hp : p = n
    · subst hp; simp
    · rw [h n (by omega) (Ne.symm hp)]
      have e : (p < n + 1) ↔ (p < n) := by omega
      simp [e]

theorem xsum_eq {n : Nat} (s : BitVec n) : xsum s = xorBelow s.getMsbD n := rfl

/-- `xsum` is linear. -/
@[simp] theorem xsum_xor {n : Nat} (s t : BitVec n) : xsum (s ^^^ t) = (xsum s ^^ xsum t) := by
  rw [xsum_eq, xsum_eq, xsum_eq, ← xorBelow_xor]
  exact xorBelow_congr fun j _ => by simp

@[simp] theorem xsum_zero (n : Nat) : xsum (0#n) = false := by
  rw [xsum_eq, xorBelow_congr (g := fun _ => false) fun j _ => by simp, xorBelow_false]

theorem dot_eq {n : Nat} (s t : BitVec n) :
    dot s t = xorBelow (fun j => s.getMsbD j && t.getMsbD j) n :=
  xorBelow_congr fun j _ => by simp

theorem dot_comm {n : Nat} (s t : BitVec n) : dot s t = dot t s := by
  rw [dot_eq, dot_eq]
  exact xorBelow_congr fun j _ => Bool.and_comm _ _

/-- `dot` is linear in its second operand. -/
@[simp] theorem dot_xor_right {n : Nat} (s t u : BitVec n) : dot s (t ^^^ u) = (dot s t ^^ dot s u) := by
  rw [dot_eq, dot_eq, dot_eq, ← xorBelow_xor]
  exact xorBelow_congr fun j _ => by rw [BitVec.getMsbD_xor]; cases s.getMsbD j <;> simp

/-- `dot` is linear in its first operand. -/
@[simp] theorem dot_xor_left {n : Nat} (s t u : BitVec n) : dot (s ^^^ t) u = (dot s u ^^ dot t u) := by
  rw [dot_comm, dot_xor_right, dot_comm u s, dot_comm u t]

@[simp] theorem dot_zero_right {n : Nat} (s : BitVec n) : dot s 0#n = false := by
  rw [dot_eq, xorBelow_congr (g := fun _ => false) fun j _ => by simp, xorBelow_false]

end Sys2Proof
end

