-- ==== Sys2Proof/Laws/Matrix.lean ====
section
/-! SUPPORT. The rows and entries of each matrix operation. -/

namespace Sys2Proof

theorem rowOf_of_lt {k n : Nat} (M : Mat k n) {i : Nat} (h : i < k) : rowOf M i = M[i] := by
  simp [rowOf, h]

theorem rowOf_of_ge {k n : Nat} (M : Mat k n) {i : Nat} (h : k ≤ i) : rowOf M i = 0#n := by
  simp [rowOf, Nat.not_lt.mpr h]

/-- Two matrices with the same rows are equal. -/
theorem eq_of_rows {k n : Nat} {A B : Mat k n} (h : ∀ i < k, rowOf A i = rowOf B i) : A = B := by
  apply Vector.ext
  intro i hi
  rw [← rowOf_of_lt A hi, ← rowOf_of_lt B hi, h i hi]

/-- Two matrices with the same entries are equal. -/
theorem eq_of_entries {k n : Nat} {A B : Mat k n} (h : ∀ i < k, ∀ j < n, entry A i j = entry B i j) : A = B :=
  eq_of_rows fun i hi => eq_of_elements fun j hj => h i hi j hj

theorem entry_of_row_ge {k n : Nat} (M : Mat k n) {i : Nat} (h : k ≤ i) (j : Nat) : entry M i j = false := by
  simp [entry, rowOf_of_ge M h]

theorem entry_of_col_ge {k n : Nat} (M : Mat k n) (i : Nat) {j : Nat} (h : n ≤ j) : entry M i j = false :=
  getMsbD_of_ge _ h

theorem rowOf_setRow {k n : Nat} (M : Mat k n) (i : Nat) (v : BitVec n) (j : Nat) :
    rowOf (setRow M i v) j = if i = j ∧ j < k then v else rowOf M j := by
  by_cases hj : j < k
  · simp [rowOf, setRow, hj, Vector.getElem_setIfInBounds]
  · simp [rowOf, hj]

@[simp] theorem rowOf_ofRows {k n : Nat} (f : Nat → BitVec n) {i : Nat} (h : i < k) :
    rowOf (ofRows k f) i = f i := by
  simp [rowOf, ofRows, h]

@[simp] theorem getMsbD_col {k n : Nat} (M : Mat k n) (j i : Nat) : (col M j).getMsbD i = entry M i j := by
  by_cases h : i < k
  · simp [col, h]
  · simp [col, h, entry_of_row_ge M (Nat.le_of_not_lt h)]

theorem entry_identity {k : Nat} {i j : Nat} (hi : i < k) (hj : j < k) :
    entry (identity k) i j = (i == j) := by
  simp [entry, identity, hi, hj]

@[simp] theorem getMsbD_vecMul {k n : Nat} (x : BitVec k) (M : Mat k n) (j : Nat) :
    (vecMul x M).getMsbD j = (decide (j < n) && dot x (col M j)) := by
  simp [vecMul]

@[simp] theorem getMsbD_mulVec {k n : Nat} (M : Mat k n) (w : BitVec n) (i : Nat) :
    (mulVec M w).getMsbD i = (decide (i < k) && dot (rowOf M i) w) := by
  simp [mulVec]

/-- `x · M` is linear in `x`. -/
theorem vecMul_xor {k n : Nat} (x y : BitVec k) (M : Mat k n) :
    vecMul (x ^^^ y) M = vecMul x M ^^^ vecMul y M :=
  eq_of_elements fun j hj => by simp [hj]

/-- `M · wᵗ` is linear in `w`. -/
theorem mulVec_xor {k n : Nat} (M : Mat k n) (w v : BitVec n) :
    mulVec M (w ^^^ v) = mulVec M w ^^^ mulVec M v :=
  eq_of_elements fun j hj => by simp [hj]

theorem entry_matMul {k m n : Nat} (A : Mat k m) (B : Mat m n) {i j : Nat} (hi : i < k) (hj : j < n) :
    entry (matMul A B) i j = dot (rowOf A i) (col B j) := by
  simp [entry, matMul, hi, hj]

theorem entry_leftBlock {k n : Nat} (c : Nat) (M : Mat k n) {i j : Nat} (hi : i < k) (hj : j < c) :
    entry (leftBlock c M) i j = entry M i j := by
  simp [entry, leftBlock, hi, hj]

end Sys2Proof
end

