-- ==== Sys2Proof/Laws/Construction.lean ====
section
/-! SUPPORT. The row primitives, the derivator's entries, one column of the table builder, and what a
construction can end in. -/

namespace Sys2Proof.Machine

theorem rowOf_rxor {k n : Nat} (M : Mat k n) (j i r : Nat) :
    rowOf (rxor M j i) r = if j = r ∧ r < k then rowOf M j ^^^ rowOf M i else rowOf M r := by
  rw [rxor, rowOf_setRow]

theorem rowOf_rswap {k n : Nat} (M : Mat k n) (i j r : Nat) (hi : i < k) (hj : j < k) :
    rowOf (rswap M i j) r = if r = j then rowOf M i else if r = i then rowOf M j else rowOf M r := by
  rw [rswap, rowOf_setRow, rowOf_setRow]
  by_cases h : r < k
  · simp only [h, and_true, eq_comm]
  · have h1 : r ≠ i := by omega
    have h2 : r ≠ j := by omega
    simp [h, h1, h2]

theorem mem_rowsBelow {k i j : Nat} : j ∈ rowsBelow k i ↔ i < j ∧ j < k := by
  simp only [rowsBelow, List.mem_range'_1]
  omega

/-- The row the pivot search takes lies below and has a 1 in the column. -/
theorem pivotRow_some {k n : Nat} {M : Mat k n} {i p : Nat} (h : pivotRow M i = some p) :
    i < p ∧ p < k ∧ entry M p i = true := by
  have hm := mem_rowsBelow.mp (List.mem_of_find?_eq_some h)
  have he := List.find?_some (p := fun j => entry M j i) h
  exact ⟨hm.1, hm.2, he⟩

/-- The pivot search fails only when no row below has a 1 in the column. -/
theorem pivotRow_none {k n : Nat} {M : Mat k n} {i : Nat} (h : pivotRow M i = none) {j : Nat} (hij : i < j)
    (hj : j < k) : entry M j i = false := by
  have := List.find?_eq_none.mp h j (mem_rowsBelow.mpr ⟨hij, hj⟩)
  simpa using this

theorem entry_derive_left (k r : Nat) (G : Mat k (k + r)) {j i : Nat} (hj : j < r) (hi : i < k) :
    entry (deriveMatrix k r G) j i = entry G i (k + j) := by
  have h : i < k + r := by omega
  simp [entry, deriveMatrix, hj, hi, h]

theorem entry_derive_right (k r : Nat) (G : Mat k (k + r)) {j c : Nat} (hj : j < r) (hc : c < r) :
    entry (deriveMatrix k r G) j (k + c) = (c == j) := by
  simp [entry, deriveMatrix, hj, hc]

/-- Entering a column succeeds only on a nonzero column whose entry is free, and fills that entry alone. -/
theorem enterColumn_some {r n p : Nat} {H : Mat r n} {T U : SynTable r p} {c : Fin n}
    (h : enterColumn H T c = some U) :
    pack (col H c) ≠ 0 ∧ (lookup T (col H c)).hit = false ∧
    ∀ S, lookup U S = if col H c = S then { hit := true, pos := BitVec.ofNat p c.val } else lookup T S := by
  unfold enterColumn at h
  split at h
  · cases h
  · next hz =>
    split at h
    · cases h
    · next hh =>
      refine ⟨hz, by simpa using hh, fun S => ?_⟩
      cases h
      simp [lookup, Vector.getElem_setIfInBounds, pack, BitVec.toNat_inj]

/-- A construction ends in one of three ways. -/
theorem construct_cases (seed : Mat 6 10) :
    (reduceMatrix seed = none ∧ construct seed = fatal seed .cRank) ∨
    (∃ G, reduceMatrix seed = some G ∧ buildTable 4 (deriveMatrix 6 4 G) = none ∧
      construct seed = fatal seed .cColumns) ∨
    (∃ G T, reduceMatrix seed = some G ∧ buildTable 4 (deriveMatrix 6 4 G) = some T ∧
      construct seed = { g := G, h := deriveMatrix 6 4 G, syn := T, ready := true, cfault := .cNone }) := by
  cases hg : reduceMatrix seed with
  | none => exact .inl ⟨rfl, by simp [construct, constructUnits, reduceUnit, hg]⟩
  | some G =>
    cases ht : buildTable 4 (deriveMatrix 6 4 G) with
    | none =>
      exact .inr (.inl ⟨G, rfl, ht, by simp [construct, constructUnits, reduceUnit, deriveUnit, buildUnit, hg, ht]⟩)
    | some T =>
      exact .inr (.inr ⟨G, T, rfl, ht, by
        simp [construct, constructUnits, reduceUnit, deriveUnit, buildUnit, finishConstruct, hg, ht]⟩)

end Sys2Proof.Machine
end

