-- ==== Sys2Proof/Laws/Decode.lean ====
section
/-! SUPPORT. The fields of a command word put together from its fields. -/

namespace Sys2Proof

@[simp] theorem opField_commandWord (op arg : BitVec 4) (payload : BitVec 16) :
    opField (commandWord op arg payload) = op := by
  apply BitVec.eq_of_getLsbD_eq
  intro i hi
  have h1 : ¬ 20 + i < 16 := by omega
  have h2 : ¬ 20 + i - 16 < 4 := by omega
  have h3 : 20 + i - 16 - 4 = i := by omega
  simp only [opField, commandWord, BitVec.getLsbD_extractLsb', BitVec.getLsbD_cast, BitVec.getLsbD_append,
    hi, h1, h2, h3, decide_true, Bool.true_and, if_false]

@[simp] theorem argField_commandWord (op arg : BitVec 4) (payload : BitVec 16) :
    argField (commandWord op arg payload) = arg := by
  apply BitVec.eq_of_getLsbD_eq
  intro i hi
  have h1 : ¬ 16 + i < 16 := by omega
  have h2 : 16 + i - 16 = i := by omega
  simp only [argField, commandWord, BitVec.getLsbD_extractLsb', BitVec.getLsbD_cast, BitVec.getLsbD_append,
    hi, h1, h2, decide_true, Bool.true_and, if_true, if_false]

theorem getLsbD_commandWord (op arg : BitVec 4) (payload : BitVec 16) {i : Nat} (hi : i < 16) :
    (commandWord op arg payload).getLsbD i = payload.getLsbD i := by
  simp only [commandWord, BitVec.getLsbD_cast, BitVec.getLsbD_append, hi, if_true]

theorem length_operandSeq (w : CmdWord) : (operandSeq w).length = (argField w).toNat := by
  simp [operandSeq]

end Sys2Proof
end

