-- ==== Sys2Proof/Laws/State.lean ====
section
/-! SUPPORT. Each field after each update of the state or of the block. -/

namespace Sys2Proof.Machine

@[simp] theorem answer_block (s : State) (r : Response) : (s.answer r).block = s.block := rfl
@[simp] theorem answer_cstep (s : State) (r : Response) : (s.answer r).cstep = s.cstep := rfl
@[simp] theorem answer_port (s : State) (r : Response) : (s.answer r).port = s.port := rfl
@[simp] theorem answer_rsp (s : State) (r : Response) : (s.answer r).rsp = some r := rfl

@[simp] theorem afterUnit_ok_block (s : State) (seed : Mat 6 10) (b : Block) (c : CStep) :
    (s.afterUnit seed (.ok b) c).block = some b := rfl
@[simp] theorem afterUnit_ok_cstep (s : State) (seed : Mat 6 10) (b : Block) (c : CStep) :
    (s.afterUnit seed (.ok b) c).cstep = c := rfl
@[simp] theorem afterUnit_error_block (s : State) (seed : Mat 6 10) (f : CFault) (c : CStep) :
    (s.afterUnit seed (.error f) c).block = some (fatal seed f) := rfl
@[simp] theorem afterUnit_error_cstep (s : State) (seed : Mat 6 10) (f : CFault) (c : CStep) :
    (s.afterUnit seed (.error f) c).cstep = .done := rfl
@[simp] theorem afterUnit_port (s : State) (seed : Mat 6 10) (r : Except CFault Block) (c : CStep) :
    (s.afterUnit seed r c).port = s.port := rfl
@[simp] theorem afterUnit_rsp (s : State) (seed : Mat 6 10) (r : Except CFault Block) (c : CStep) :
    (s.afterUnit seed r c).rsp = none := rfl

@[simp] theorem fatal_ready (seed : Mat 6 10) (f : CFault) : (fatal seed f).ready = false := rfl
@[simp] theorem beginConstruct_ready (seed : Mat 6 10) : (beginConstruct seed).ready = false := rfl
@[simp] theorem fatal_cfault (seed : Mat 6 10) (f : CFault) : (fatal seed f).cfault = f := rfl

@[simp] theorem finish_g (b : Block) : (finishConstruct b).g = b.g := rfl
@[simp] theorem finish_h (b : Block) : (finishConstruct b).h = b.h := rfl
@[simp] theorem finish_syn (b : Block) : (finishConstruct b).syn = b.syn := rfl
@[simp] theorem finish_ready (b : Block) : (finishConstruct b).ready = true := rfl
@[simp] theorem finish_cfault (b : Block) : (finishConstruct b).cfault = .cNone := rfl

@[simp] theorem reset_block : State.reset.block = some (construct Config.seedG) := rfl
@[simp] theorem reset_cstep : State.reset.cstep = .done := rfl
@[simp] theorem reset_port : State.reset.port = [] := rfl
@[simp] theorem reset_rsp : State.reset.rsp = none := rfl

end Sys2Proof.Machine
end

