-- ==== Sys2Proof/Laws/Ops.lean ====
section
/-! SUPPORT. What each shared operation can do, said once. -/

namespace Sys2Proof.Machine

/-- A command on a block with state answers. -/
theorem command_of_block {s : State} {b : Block} (h : s.block = some b) (f : Block → Response) :
    command s f = .next (s.answer (f b)) := by
  simp [command, h]

/-- A command that answers had a block to answer from, and changes the response alone. -/
theorem command_next {s t : State} {f : Block → Response} (h : command s f = .next t) :
    ∃ b, s.block = some b ∧ t = s.answer (f b) := by
  unfold command at h
  split at h
  · next b hb => exact ⟨b, hb, (Host.Outcome.next.inj h).symm⟩
  · cases h

/-- A unit of the reset step on a block with state runs. -/
theorem runUnit_of_block {s : State} {b : Block} (h : s.block = some b) (u : Block → Except CFault Block)
    (c : CStep) : runUnit s u c = .next (s.afterUnit Config.seedG (u b) c) := by
  simp [runUnit, h]

/-- A unit that ran had a block to run on. -/
theorem runUnit_next {s t : State} {u : Block → Except CFault Block} {c : CStep} (h : runUnit s u c = .next t) :
    ∃ b, s.block = some b ∧ t = s.afterUnit Config.seedG (u b) c := by
  unfold runUnit at h
  split at h
  · next b hb => exact ⟨b, hb, (Host.Outcome.next.inj h).symm⟩
  · cases h

/-- What a fetch can be: idle, a pending unit, or the next host event. -/
theorem fetch_cases (s : State) :
    (s.cstep = .done ∧ s.port = [] ∧ fetch s = none) ∨
    (∃ e rest, s.cstep = .done ∧ s.port = e :: rest ∧ fetch s = some (decodeEvent e, { s with port := rest })) ∨
    (s.cstep = .reduce ∧ fetch s = some (.reduce, s)) ∨
    (s.cstep = .derive ∧ fetch s = some (.derive, s)) ∨
    (s.cstep = .build ∧ fetch s = some (.build, s)) := by
  cases hc : s.cstep with
  | reduce => simp [fetch, hc]
  | derive => simp [fetch, hc]
  | build => simp [fetch, hc]
  | done =>
    cases hp : s.port with
    | nil => simp [fetch, hc, hp]
    | cons e rest => simp [fetch, hc, hp]

/-- The instruction decoded from a command word is a command. -/
theorem decodeCommand_isCommand (w : CmdWord) : (decodeCommand w).isCommand = true := by
  unfold decodeCommand
  split <;> rfl

/-- Every command is answered through `command`, or refused as not presentable. -/
theorem exec_command_cases {i : Instr} (hi : i.isCommand = true) (s : State) :
    (∃ f, exec i s = command s f) ∨ exec i s = .refused .notPresentable := by
  cases i with
  | nop => exact .inl ⟨_, rfl⟩
  | enc d => simp only [exec, execEnc]; split; exacts [.inl ⟨_, rfl⟩, .inr rfl]
  | dec r => simp only [exec, execDec]; split; exacts [.inl ⟨_, rfl⟩, .inr rfl]
  | rdg idx => exact .inl ⟨_, rfl⟩
  | rdh idx => exact .inl ⟨_, rfl⟩
  | rds idx => exact .inl ⟨_, rfl⟩
  | stat => exact .inl ⟨_, rfl⟩
  | reserved7 => exact .inl ⟨_, rfl⟩
  | reserved8to15 low => exact .inl ⟨_, rfl⟩
  | construct => cases hi
  | reduce => cases hi
  | derive => cases hi
  | build => cases hi

end Sys2Proof.Machine
end

