-- ==== Sys2Proof/Laws/PerInstr.lean ====
section
/-! SUPPORT. Facts about every instruction as syntax, one lemma per constructor. -/

namespace Sys2Proof.Laws

/-- The operation code of the row of the opcode map a command stands in (R84, R85). -/
def rowOp : Instr → Option (BitVec 4)
  | .nop => some 0
  | .enc _ => some 1
  | .dec _ => some 2
  | .rdg _ => some 3
  | .rdh _ => some 4
  | .rds _ => some 5
  | .stat => some 6
  | .reserved7 => some 7
  | .reserved8to15 low => some (BitVec.ofNat 4 (8 + low.val))
  | .construct => none
  | .reduce => none
  | .derive => none
  | .build => none

/-- A command is encoded as a command word whose `op` field is its row's code, and nothing else is. -/
def EncodesInRow.Statement (i : Instr) : Prop :=
  match encode i with
  | .command w => rowOp i = some (opField w)
  | .rst _ => rowOp i = none
  | .unit _ => rowOp i = none

theorem EncodesInRow.nop : EncodesInRow.Statement .nop := by
  simp [EncodesInRow.Statement, encode, rowOp]
theorem EncodesInRow.enc (s : BitSeq) : EncodesInRow.Statement (.enc s) := by
  simp [EncodesInRow.Statement, encode, rowOp]
theorem EncodesInRow.dec (s : BitSeq) : EncodesInRow.Statement (.dec s) := by
  simp [EncodesInRow.Statement, encode, rowOp]
theorem EncodesInRow.rdg (idx : Fin 16) : EncodesInRow.Statement (.rdg idx) := by
  simp [EncodesInRow.Statement, encode, rowOp]
theorem EncodesInRow.rdh (idx : Fin 16) : EncodesInRow.Statement (.rdh idx) := by
  simp [EncodesInRow.Statement, encode, rowOp]
theorem EncodesInRow.rds (idx : Fin 16) : EncodesInRow.Statement (.rds idx) := by
  simp [EncodesInRow.Statement, encode, rowOp]
theorem EncodesInRow.stat : EncodesInRow.Statement .stat := by
  simp [EncodesInRow.Statement, encode, rowOp]
theorem EncodesInRow.reserved7 : EncodesInRow.Statement .reserved7 := by
  simp [EncodesInRow.Statement, encode, rowOp]
theorem EncodesInRow.reserved8to15 (low : Fin 8) : EncodesInRow.Statement (.reserved8to15 low) := by
  simp [EncodesInRow.Statement, encode, rowOp]
theorem EncodesInRow.construct : EncodesInRow.Statement .construct := rfl
theorem EncodesInRow.reduce : EncodesInRow.Statement .reduce := rfl
theorem EncodesInRow.derive : EncodesInRow.Statement .derive := rfl
theorem EncodesInRow.build : EncodesInRow.Statement .build := rfl

end Sys2Proof.Laws
end

