-- ==== Sys2Proof/Tests/Slice0.lean ====
section
/-! SUPPORT. Tests with results taken from the spec (spec/95_test_vectors.md unless another file is named), the
smoke test of WellFormed, and the witnesses of the statements' hypotheses.  `SEED_G_REF` stands here and nowhere
in the model (spec/00_scope.md R10). -/

namespace Sys2Proof.Tests

open Sys2Proof.Machine

-- One theorem at a time: each kernel evaluation waits for the ones before it, and a thread each is too many.
set_option Elab.async false

/-- `SEED_G_REF` (R10). -/
def seedRef : Mat 6 10 :=
  #v[0b1110000100#10, 0b0100100100#10, 0b1001010000#10, 0b0001001100#10, 0b1101000110#10, 0b1001000101#10]

/-- `G` of section 3, also the systematic seed of vector 6.8. -/
def gRef : Mat 6 10 :=
  #v[0b1000001001#10, 0b0100000011#10, 0b0010001110#10, 0b0001001100#10, 0b0000100111#10, 0b0000010101#10]

/-- `H` of section 3. -/
def hRef : Mat 4 10 :=
  #v[0b1011001000#10, 0b0011110100#10, 0b0110100010#10, 0b1100110001#10]

/-- Vector 6.9: rows 0 and 1 equal. -/
def seedRank : Mat 6 10 := setRow seedRef 1 0b1110000100#10

/-- Vectors 6.11 to 6.13: the systematic seed with another last row. -/
def seedLastRow (r : Row) : Mat 6 10 := setRow gRef 5 r

def blockRef : Block := construct seedRef
def blockRank : Block := construct seedRank

/-- A block with state, nothing presented. -/
def stateOf (b : Block) : State := { State.powerOn with block := some b }

/-- The response word of a command word presented to a block. -/
def rspOf (b : Block) (w : Nat) : Option RspWord :=
  match step ((stateOf b).withFetchWord 24 w) with
  | .next t => t.rspWord
  | .fault _ => none
  | .refused _ => none

/-! WellFormed -/

theorem test_enc_of_sixteen_is_ill_formed : (Instr.enc (List.replicate 16 true)).wellFormed = false := by decide
theorem test_dec_of_sixteen_is_ill_formed : (Instr.dec (List.replicate 16 true)).wellFormed = false := by decide
theorem test_enc_of_fifteen_is_well_formed : (Instr.enc (List.replicate 15 true)).wellFormed = true := by decide

/-! Decoding: words written out from 30_encoding.md R80 to R86 -/

theorem test_decode_nop : decodeCommand 0b0000_0000_0000000000000000#24 = .nop := by decide
theorem test_decode_enc :
    decodeCommand 0b0001_0110_1011000000000000#24 = .enc [true, false, true, true, false, false] := by decide
theorem test_decode_dec : decodeCommand 0b0010_1011_1011001011000000#24 =
    .dec [true, false, true, true, false, false, true, false, true, true, false] := by decide
theorem test_decode_rdg : decodeCommand 0b0011_0010_0000000000000000#24 = .rdg 2 := by decide
theorem test_decode_rdh : decodeCommand 0b0100_0011_0000000000000000#24 = .rdh 3 := by decide
theorem test_decode_rds : decodeCommand 0b0101_1100_0000000000000000#24 = .rds 12 := by decide
theorem test_decode_stat : decodeCommand 0b0110_0000_0000000000000000#24 = .stat := by decide
theorem test_decode_reserved7 : decodeCommand 0b0111_0000_0000000000000000#24 = .reserved7 := by decide
theorem test_decode_reserved9 : decodeCommand 0b1001_0000_0000000000000000#24 = .reserved8to15 1 := by decide
theorem test_decode_construct : decodeTableWord 1 0b1 = some .construct := by decide
theorem test_decode_reduce : decodeTableWord 2 0b00 = some .reduce := by decide
theorem test_decode_derive : decodeTableWord 2 0b01 = some .derive := by decide
theorem test_decode_build : decodeTableWord 2 0b10 = some .build := by decide
theorem test_decode_rejects_no_unit : decode (.unit 0b11#2) = .error .noUnitSelected := by rfl
theorem test_decode_rejects_idle_reset : decode (.rst false) = .error .resetNotAsserted := by rfl

/-! Construction: sections 3 and 6 -/

theorem test_reduce_ref : reduceMatrix seedRef = some gRef := by decide +kernel
theorem test_derive_ref : deriveMatrix 6 4 gRef = hRef := by decide +kernel
theorem test_build_ref : (buildTable 4 hRef).map (fun T => T.toList.map fun e => (e.hit, e.pos.toNat)) = some
    [(false, 0), (true, 9), (true, 8), (true, 1), (true, 7), (true, 5), (false, 0), (true, 4),
     (true, 6), (true, 0), (false, 0), (false, 0), (true, 3), (false, 0), (true, 2), (false, 0)] := by
  decide +kernel
theorem test_reduce_swaps : reduceMatrix (#v[0b01101#5, 0b01010#5, 0b10111#5] : Mat 3 5) =
    some #v[0b10000#5, 0b01010#5, 0b00111#5] := by decide +kernel
theorem test_reduce_dependent_rows : reduceMatrix (#v[0b01101#5, 0b11010#5, 0b10111#5] : Mat 3 5) = none := by
  decide +kernel
theorem test_reduce_singular_left_block : reduceMatrix (#v[0b110#3, 0b111#3] : Mat 2 3) = none := by
  decide +kernel
theorem test_construct_rank_fault : (blockRank.ready, blockRank.cfault) = (false, .cRank) := by decide +kernel
theorem test_construct_repeated_column :
    (construct (seedLastRow 0b0000010111#10)).cfault = .cColumns := by decide +kernel
theorem test_construct_zero_column :
    (construct (seedLastRow 0b0000010000#10)).cfault = .cColumns := by decide +kernel

/-! Commands on the reference block: sections 2, 4, 5 and 7 -/

theorem test_nop : rspOf blockRef 0x000000 = some 0x0000#16 := by decide +kernel
theorem test_stat_ready : rspOf blockRef 0x600000 = some 0x0400#16 := by decide +kernel
theorem test_stat_failed : rspOf blockRank 0x600000 = some 0x0100#16 := by decide +kernel
theorem test_enc : rspOf blockRef 0x16B3FF = some 0x0596#16 := by decide +kernel
theorem test_enc_length : rspOf blockRef 0x15B000 = some 0x2000#16 := by decide +kernel
theorem test_dec_corrects_a_hit : rspOf blockRef 0x2BB140 = some 0x1480#16 := by decide +kernel
theorem test_dec_misses : rspOf blockRef 0x2B62C0 = some 0x1800#16 := by decide +kernel
theorem test_rdg : rspOf blockRef 0x320000 = some 0x011C#16 := by decide +kernel
theorem test_rdg_index : rspOf blockRef 0x360000 = some 0x8000#16 := by decide +kernel
theorem test_rdh : rspOf blockRef 0x430000 = some 0x0662#16 := by decide +kernel
theorem test_rdh_index : rspOf blockRef 0x440000 = some 0x8000#16 := by decide +kernel
theorem test_rds_hit : rspOf blockRef 0x5C0000 = some 0x04C0#16 := by decide +kernel
theorem test_rds_not_ready : rspOf blockRank 0x510000 = some 0x6000#16 := by decide +kernel
theorem test_reserved7 : rspOf blockRef 0x700000 = some 0x4000#16 := by decide +kernel
theorem test_reserved15 : rspOf blockRank 0xF12345 = some 0x4000#16 := by decide +kernel

/-! The first step after reset, whatever the seed -/

theorem test_first_command_after_reset : ∃ t, step (State.reset.withFetchWord 24 0x16B000) = .next t := ⟨_, rfl⟩
theorem test_first_reset_after_reset : step (State.reset.withFetchWord 1 1) = .next State.reset := by rfl
theorem test_first_unit_after_reset : ∃ t, step (State.reset.withFetchWord 2 0) = .next t := ⟨_, rfl⟩
theorem test_command_before_reset_is_refused :
    step (State.powerOn.withFetchWord 24 0x16B000) = .refused .beforeFirstReset := by rfl

/-! Text: 30_encoding.md R92 and program 7.1 -/

theorem test_parse_enc : parseLine ['E', 'N', 'C', ' ', '1', '0', '1', '1', '0', '0'] =
    some (.enc [true, false, true, true, false, false]) := by decide
theorem test_parse_rejects_index_sixteen : parseLine ['R', 'D', 'S', ' ', '1', '6'] = none := by decide
theorem test_assemble : assemble [['R', 'E', 'S', 'E', 'T'], ['S', 'T', 'A', 'T']] =
    some [.reset, .command 0x600000#24] := by decide
theorem test_text_of_status : responseText (.status true .cNone) =
    ['S', 'T', 'A', 'T', 'U', 'S', ' ', 'r', 'e', 'a', 'd', 'y', '=', '1', ' ',
     'c', 'f', 'a', 'u', 'l', 't', '=', '0'] := by decide

/-! Witnesses: states and operands that meet the statements' hypotheses together -/

theorem blockRef_systematic : IsSystematic blockRef.g := by unfold IsSystematic; decide +kernel
theorem blockRef_check : IsCheckMatrixOf blockRef.g blockRef.h := by unfold IsCheckMatrixOf; decide +kernel
theorem blockRef_table : IsSyndromeTableOf blockRef.h blockRef.syn := by
  unfold IsSyndromeTableOf; decide +kernel

/-- The ready, built block that most statements take: `CodewordProperties`, the built clause of
`DecZeroSyndromeOutcomes`, `RoundTripAndSingleFlipCorrection`, `DecoderCensus`, `SeedIndependentDecodes`, `MatrixInvariantsThroughThePort`,
`SyndromeTableContents`, the built clauses of `RdsAnswersRomEntry`, and every statement with `s.block = some b`. -/
theorem witness_ready_built_block :
    (stateOf blockRef).block = some blockRef ∧ blockRef.ready = true ∧ blockRef.Built :=
  ⟨rfl, by decide +kernel, ⟨blockRef_systematic, blockRef_check, blockRef_table⟩⟩

/-- The failed block: the `E_NOTREADY` clauses. -/
theorem witness_failed_block : (stateOf blockRank).block = some blockRank ∧ blockRank.ready = false :=
  ⟨rfl, by decide +kernel⟩

theorem witness_DecodeOfEncodeIsIdentity : (Instr.enc (List.replicate 15 true)).wellFormed = true := by decide
theorem witness_OperandFields_enc : decodeCommand 0x1F0000#24 = .enc (List.replicate 15 false) := by decide
theorem witness_OperandFields_dec : decodeCommand 0x200000#24 = .dec [] := by decide
theorem witness_OperandFields_index :
    decodeCommand 0x3F0000#24 = .rdg 15 ∧ decodeCommand 0x4F0000#24 = .rdh 15 ∧ decodeCommand 0x5F0000#24 = .rds 15 := by
  decide
/-- Two words that differ only beyond the sequence (R83). -/
theorem witness_IgnoredFields : (0x16B000#24).extractLsb' 20 4 = (0x16B3FF#24).extractLsb' 20 4 ∧
    (0x16B000#24).extractLsb' 16 4 = (0x16B3FF#24).extractLsb' 16 4 ∧
    ∀ i < ((0x16B000#24).extractLsb' 16 4).toNat, (0x16B000#24).getLsbD (15 - i) = (0x16B3FF#24).getLsbD (15 - i) := by
  decide
theorem witness_IgnoredFields_nop_and_high : (0x000000#24).extractLsb' 20 4 = (0x0FFFFF#24).extractLsb' 20 4 ∧
    (0x000000#24).extractLsb' 20 4 = 0#4 ∧ (0x600000#24).extractLsb' 20 4 = (0x6FFFFF#24).extractLsb' 20 4 ∧
    6 ≤ ((0x600000#24).extractLsb' 20 4).toNat ∧ (0x300000#24).extractLsb' 20 4 = (0x30FFFF#24).extractLsb' 20 4 ∧
    (0x300000#24).extractLsb' 16 4 = (0x30FFFF#24).extractLsb' 16 4 ∧ 3 ≤ ((0x300000#24).extractLsb' 20 4).toNat := by
  decide
theorem witness_ParsedLineIsTheInstruction :
    (Instr.enc []).wellFormed = true ∧ lineText (.enc []) = some ['E', 'N', 'C', ' ', '-'] := by decide

theorem witness_StepRuns_command : ({ stateOf blockRef with port := [.command 0x600000#24] } : State).cstep = .done ∧
    ({ stateOf blockRef with port := [.command 0x600000#24] } : State).port = .command 0x600000#24 :: [] ∧
    decode (.command 0x600000#24) = .ok .stat := ⟨rfl, rfl, rfl⟩
theorem witness_StepRuns_reset : ({ stateOf blockRef with port := [.reset] } : State).cstep = .done ∧
    ({ stateOf blockRef with port := [.reset] } : State).port = .reset :: [] ∧
    decode (.rst true) = .ok .construct := ⟨rfl, rfl, rfl⟩
theorem witness_StepRuns_units : decode (.unit CStep.reduce.code) = .ok .reduce ∧
    decode (.unit CStep.derive.code) = .ok .derive ∧ decode (.unit CStep.build.code) = .ok .build := ⟨rfl, rfl, rfl⟩
theorem witness_StepRuns_idle : State.reset.cstep = .done ∧ State.reset.port = [] := ⟨rfl, rfl⟩
theorem witness_PlacedTableWordRunsNext : (stateOf blockRef).cstep = .done ∧
    decodeTableWord 24 0x600000 = some .stat ∧ decodeTableWord 1 1 = some .construct ∧
    decodeTableWord 2 0 = some .reduce ∧ decodeTableWord 2 1 = some .derive ∧ decodeTableWord 2 2 = some .build := by
  decide

theorem witness_NopAnswersNone_word : (0x0FFFFF#24).extractLsb' 20 4 = 0#4 := by decide
theorem witness_StatAnswers_word : (0x6FFFFF#24).extractLsb' 20 4 = 6#4 := by decide
theorem witness_blockInv_ready : blockRef.Inv :=
  ⟨fun _ => witness_ready_built_block.2.2, by constructor <;> intro _ <;> decide +kernel⟩
theorem witness_blockInv_failed : blockRank.Inv :=
  ⟨fun h => absurd h (by decide +kernel), by
    constructor
    · intro h; exact absurd h (by decide +kernel)
    · intro h; exact absurd h (by decide +kernel)⟩
/-- Boundary indices of `RDG` and `RDH`: the last row, and the first index past it. -/
theorem witness_Rdg_indices : (5 : Fin 16).val ≤ 5 ∧ 5 < (6 : Fin 16).val ∧ (0x350000#24).extractLsb' 20 4 = 3#4 := by
  decide
theorem witness_Rdh_indices : (3 : Fin 16).val ≤ 3 ∧ 3 < (4 : Fin 16).val ∧ (0x430000#24).extractLsb' 20 4 = 4#4 := by
  decide
theorem witness_Rds_word : (0x5F0000#24).extractLsb' 20 4 = 5#4 := by decide
theorem witness_Reserved_word : 7 ≤ ((0x700000#24).extractLsb' 20 4).toNat ∧ 7 ≤ ((0xFFFFFF#24).extractLsb' 20 4).toNat := by
  decide
theorem witness_EncAnswersCodeword_operand : [true, false, true, true, false, false].length = 6 := by decide
theorem witness_EncErrors_lengths : (List.replicate 15 true).length ≤ 15 ∧ (List.replicate 5 true).length ≠ 6 ∧
    (List.replicate 7 true).length ≠ 6 := by decide
theorem witness_DecErrors_lengths : (List.replicate 10 true).length ≠ 11 ∧ (List.replicate 12 true).length ≠ 11 ∧
    (List.replicate 12 true).length ≤ 15 := by decide
/-- The response of an `ENC` on the reference block (R146): the premise of `CodewordProperties`,
`RoundTripAndSingleFlipCorrection` and `DoubleFlipsAreDetected`. -/
theorem witness_encoded_word :
    responseTo (stateOf blockRef) (.enc (elems 0b101100#6)) = some (.codeword 0b10110010110#11) := by decide +kernel
theorem witness_two_encoded_words : (0b101100#6 ≠ 0b000001#6) ∧
    responseTo (stateOf blockRef) (.enc (elems 0b000001#6)) = some (.codeword 0b00000101011#11) := by decide +kernel
/-- Vector 5.1 and the last row of 5.2. -/
theorem witness_DecZeroSyndrome : (∀ i < 4, dot (rowOf blockRef.h i) 0b1011001011#10 = false) ∧
    xsum 0b1011001011#10 = false ∧ xsum 0b1011001011#10 ≠ true := by decide +kernel
/-- Vector 5.2, position 9 flipped: a hit. -/
theorem witness_DecTableLookup_hit :
    (∀ i < 4, (0b0001#4).getMsbD i = dot (rowOf blockRef.h i) 0b1011001010#10) ∧ 0b0001#4 ≠ 0#4 ∧
    xsum 0b1011001010#10 ≠ false ∧ (lookup blockRef.syn 0b0001#4).hit = true := by decide +kernel
/-- Vector 5.4, positions 0, 1 and 3 flipped: a miss. -/
theorem witness_DecTableLookup_miss :
    (∀ i < 4, (0b0110#4).getMsbD i = dot (rowOf blockRef.h i) 0b0110001011#10) ∧ 0b0110#4 ≠ 0#4 ∧
    xsum 0b0110001011#10 ≠ false ∧ (lookup blockRef.syn 0b0110#4).hit = false := by decide +kernel
/-- Vector 5.3, positions 0 and 1 flipped. -/
theorem witness_DecDoubleError :
    (∃ i < 4, dot (rowOf blockRef.h i) 0b0111001011#10 = true) ∧ xsum 0b0111001011#10 = false :=
  ⟨⟨0, by decide +kernel⟩, by decide +kernel⟩
theorem witness_valid_codeword : ValidCodeword blockRef.g 0b10110010110#11 :=
  ⟨0b1011001011#10, ⟨0b101100#6, by decide +kernel⟩, by decide +kernel⟩
/-- Vector 5.4: a word in the miss branch, and the codeword it is three flips from. -/
theorem witness_MissBranch : zeroSyndrome blockRef 0b01100010110#11 = false ∧
    parityError 0b01100010110#11 = true ∧ tableHit blockRef 0b01100010110#11 = false := by decide +kernel
theorem witness_commands_are_well_formed :
    (Instr.enc [true]).isCommand = true ∧ (Instr.enc [true]).wellFormed = true := by decide
theorem witness_CommandsWriteNoState :
    exec (decodeCommand 0x600000#24) (stateOf blockRef) = .next ((stateOf blockRef).answer (.status blockRef.ready blockRef.cfault)) :=
  rfl
theorem witness_before_first_reset : State.powerOn.block = none := rfl
theorem witness_long_operand : 15 < (List.replicate 16 true).length := by decide
theorem witness_two_failed_blocks : blockRank.ready = false ∧
    ({ blockRank with g := gRef } : Block).ready = false ∧ blockRank.cfault = ({ blockRank with g := gRef } : Block).cfault := by
  decide +kernel
theorem witness_read_sets : (∀ b : Block, ({ b with h := hRef } : Block).g = b.g) ∧
    ∀ b : Block, ({ b with g := seedRef } : Block).h = b.h ∧ ({ b with g := seedRef } : Block).syn = b.syn :=
  ⟨fun _ => rfl, fun _ => ⟨rfl, rfl⟩⟩
theorem witness_history : (stateOf blockRef).block = some blockRef ∧ (stateOf blockRef).cstep = .done := ⟨rfl, rfl⟩
theorem witness_same_reads : (∀ a : Fin 16,
    responseTo (stateOf blockRef) (.rdg a) = responseTo { stateOf blockRef with port := [.reset] } (.rdg a) ∧
    responseTo (stateOf blockRef) (.rdh a) = responseTo { stateOf blockRef with port := [.reset] } (.rdh a) ∧
    responseTo (stateOf blockRef) (.rds a) = responseTo { stateOf blockRef with port := [.reset] } (.rds a)) ∧
    responseTo (stateOf blockRef) .stat = responseTo { stateOf blockRef with port := [.reset] } .stat :=
  ⟨fun _ => ⟨rfl, rfl, rfl⟩, rfl⟩
theorem witness_construct_outcomes : reduceMatrix seedRank = none ∧
    reduceMatrix (seedLastRow 0b0000010000#10) = some (seedLastRow 0b0000010000#10) ∧
    buildTable 4 (deriveMatrix 6 4 (seedLastRow 0b0000010000#10)) = none ∧
    (buildTable 4 (deriveMatrix 6 4 gRef)).isSome = true := by decide +kernel
theorem witness_BuildUnit_good_columns : (∀ c : Fin 10, col blockRef.h c ≠ 0#4) ∧
    ∀ c d : Fin 10, col blockRef.h c = col blockRef.h d → c = d := by decide +kernel
theorem witness_BuildUnit_bad_columns :
    (∃ c : Fin 10, col (deriveMatrix 6 4 (seedLastRow 0b0000010000#10)) c = 0#4) ∧
    ∃ c d : Fin 10, c ≠ d ∧ col (deriveMatrix 6 4 (seedLastRow 0b0000010111#10)) c =
      col (deriveMatrix 6 4 (seedLastRow 0b0000010111#10)) d := by decide +kernel
theorem witness_BlockNeverChanges : State.reset.cstep = .done ∧ State.reset.block = some (construct Config.seedG) ∧
    step State.reset = .next State.reset := ⟨rfl, rfl, rfl⟩
/-- The invariant holds of a state whose next step is a command, and that step answers. -/
theorem witness_EveryStepKeepsTheInvariant : ({ stateOf blockRef with port := [.command 0x16B000#24] } : State).Inv ∧
    ∃ t, step { stateOf blockRef with port := [.command 0x16B000#24] } = .next t :=
  ⟨⟨rfl, fun _ h => Option.some.inj h ▸ witness_blockInv_ready⟩, ⟨_, rfl⟩⟩
theorem witness_RowPrimitives : (0 < 6 ∧ 5 < 6 ∧ (0 : Nat) ≠ 5) ∧ rswap (rswap seedRef 0 5) 0 5 = seedRef := by
  decide +kernel
/-- Vector 6.1, column 0. -/
theorem witness_PivotSearch : pivotRow (#v[0b01101#5, 0b01010#5, 0b10111#5] : Mat 3 5) 0 = some 2 ∧
    entry (#v[0b01101#5, 0b01010#5, 0b10111#5] : Mat 3 5) 0 0 = false ∧ entry seedRef 0 0 = true := by decide +kernel
theorem witness_ForwardPass : (forwardColumn seedRef 0).isSome = true ∧ (forwardColumn gRef 5).isSome = true ∧ (forwardPass seedRef).isSome = true := by
  decide +kernel
theorem witness_ReduceReturns : 6 ≤ 10 ∧ reduceMatrix seedRef = some gRef ∧ reduceMatrix gRef = some gRef :=
  ⟨by decide, test_reduce_ref, by decide +kernel⟩
theorem witness_dependent_rows : ∃ x : BitVec 6, x ≠ 0#6 ∧ vecMul x seedRank = 0#10 :=
  ⟨0b110000#6, by decide +kernel⟩
theorem witness_systematic_input : IsSystematic gRef := by unfold IsSystematic; decide +kernel
theorem witness_Derive_zero_row_combination : vecMul 0#4 hRef = 0#10 ∧ ∀ j < 4, dot (rowOf hRef j) (rowOf gRef 5) = false := by
  decide +kernel
theorem witness_BuildMaps : 10 ≤ 2 ^ 4 ∧ (buildTable 4 hRef).isSome = true ∧
    (∀ c : Fin 10, col hRef c ≠ 0b0110#4) ∧ buildTable 4 (deriveMatrix 6 4 (seedLastRow 0b0000010100#10)) = none := by
  decide +kernel
theorem witness_ready_construction : (construct seedRef).ready = true ∧ ConstructOK seedRef :=
  ⟨witness_ready_built_block.2.1, witness_ready_built_block.2.1⟩
theorem witness_light_word : (0b1000000001#10 ≠ 0#10) ∧ distance 0b1000000001#10 0#10 ≤ 2 := by decide +kernel
theorem witness_row_space_word : InRowSpace blockRef.g 0b1000001001#10 ∧ 0b1000001001#10 ≠ 0#10 :=
  ⟨⟨0b100000#6, by decide +kernel⟩, by decide⟩

/-- `SeedOkIsConstructOk`, first fault: a seed with two equal rows on the left has no inverse. -/
theorem witness_singular_left_block : ¬ Invertible (leftBlock 6 seedRank) := by
  rintro ⟨B, -, h⟩
  have heq : rowOf (leftBlock 6 seedRank) 0 = rowOf (leftBlock 6 seedRank) 1 := by decide +kernel
  have hrows : rowOf (matMul (leftBlock 6 seedRank) B) 0 = rowOf (matMul (leftBlock 6 seedRank) B) 1 := by
    simp [matMul, heq]
  rw [h] at hrows
  exact absurd hrows (by decide +kernel)

/-- `SeedOkIsConstructOk`, second fault: an invertible left block with a zero row of `P`. -/
theorem witness_invertible_but_not_SeedOK : Invertible (leftBlock 6 (seedLastRow 0b0000010000#10)) ∧
    ¬ SeedOK (seedLastRow 0b0000010000#10) := by
  refine ⟨⟨identity 6, by decide +kernel⟩, fun h => ?_⟩
  have hrow := (h.2 _ witness_construct_outcomes.2.1).2 5 (by decide)
  exact absurd hrow (by unfold HasTwoOnes; decide +kernel)

end Sys2Proof.Tests
end

/-! The packed value of a sequence as the weighted sum of its elements (spec/00_scope.md R17). -/

namespace Sys2Proof

/-- What element `i` adds to the packed value of `s`. -/
def elemWeight {n : Nat} (s : BitVec n) (i : Nat) : Nat :=
  (s.getMsbD i).toNat * 2 ^ (n - 1 - i)

/-- Element `i` is the binary digit of place `n − 1 − i` of the packed value. -/
theorem toNat_getMsbD_eq_digit {n : Nat} (s : BitVec n) {i : Nat} (h : i < n) :
    (s.getMsbD i).toNat = pack s / 2 ^ (n - 1 - i) % 2 := by
  rw [BitVec.getMsbD_eq_getLsbD, decide_eq_true h, Bool.true_and, BitVec.getLsbD, Nat.toNat_testBit]
  rfl

/-- The first `m` elements give the packed value with its low `n − m` digits cleared. -/
theorem foldl_elemWeight_eq_high_digits {n : Nat} (s : BitVec n) {m : Nat} (hm : m ≤ n) :
    (List.range m).foldl (fun acc i => acc + elemWeight s i) 0 =
      pack s / 2 ^ (n - m) * 2 ^ (n - m) := by
  induction m with
  | zero =>
    have hlt : pack s < 2 ^ n := s.isLt
    simp [Nat.div_eq_of_lt hlt]
  | succ m ih =>
    have hplace : n - (m + 1) = n - 1 - m := by omega
    have hprev : n - m = n - 1 - m + 1 := by omega
    have hdigit := toNat_getMsbD_eq_digit s hm
    rw [List.range_succ, List.foldl_append, ih (Nat.le_of_succ_le hm), List.foldl_cons, List.foldl_nil,
      elemWeight, hdigit, hplace, hprev]
    generalize n - 1 - m = k
    have hsplit : 2 * (pack s / 2 ^ (k + 1)) + pack s / 2 ^ k % 2 = pack s / 2 ^ k := by
      rw [Nat.pow_succ, ← Nat.div_div_eq_div_mul]
      exact Nat.div_add_mod _ 2
    calc pack s / 2 ^ (k + 1) * 2 ^ (k + 1) + pack s / 2 ^ k % 2 * 2 ^ k
        = (2 * (pack s / 2 ^ (k + 1)) + pack s / 2 ^ k % 2) * 2 ^ k := by ring
      _ = pack s / 2 ^ k * 2 ^ k := by rw [hsplit]

theorem pack_eq_foldl_elemWeight {n : Nat} (s : BitVec n) :
    pack s = (List.range n).foldl (fun acc i => acc + elemWeight s i) 0 := by
  simp [foldl_elemWeight_eq_high_digits s (Nat.le_refl n)]

/-- The four elements of a syndrome weigh 8, 4, 2 and 1 (R157). -/
theorem pack_syndrome (S : Syndrome) :
    pack S = 8 * (S.getMsbD 0).toNat + 4 * (S.getMsbD 1).toNat + 2 * (S.getMsbD 2).toNat +
      (S.getMsbD 3).toNat := by
  have hrange : List.range 4 = [0, 1, 2, 3] := rfl
  rw [pack_eq_foldl_elemWeight, hrange]
  simp only [List.foldl_cons, List.foldl_nil, elemWeight]
  omega

/-- Settles O6: by induction on a prefix of the sequence, whose weights sum to the high digits of `pack s`. -/
theorem packReadsElementZeroAsMostSignificant : Obligations.PackReadsElementZeroAsMostSignificant :=
  ⟨fun _ s => pack_eq_foldl_elemWeight s, pack_syndrome⟩

end Sys2Proof

/-! What a command can do: the response it computes from the block, its frame, and its refusals
(spec/10_state.md R31, R44). -/

namespace Sys2Proof.Machine

/-- The response each command computes from the block; the reset step and its units have none (R79). -/
def commandResponse : Instr → Block → Response
  | .nop, _ => .none
  | .enc d, b => encResponse d b
  | .dec r, b => decResponse r b
  | .rdg idx, b => rdgResponse idx b
  | .rdh idx, b => rdhResponse idx b
  | .rds idx, b => rdsResponse idx b
  | .stat, b => .status b.ready b.cfault
  | .reserved7, b => illegalResponse b
  | .reserved8to15 _, b => illegalResponse b
  | .construct, _ => .none
  | .reduce, _ => .none
  | .derive, _ => .none
  | .build, _ => .none

/-- A command the port can carry is answered through `command`. -/
theorem exec_of_wellFormed {i : Instr} (hi : i.isCommand = true) (hw : i.wellFormed = true) (s : State) :
    exec i s = command s (commandResponse i) := by
  cases i with
  | enc d => exact if_pos hw
  | dec r => exact if_pos hw
  | nop | rdg | rdh | rds | stat | reserved7 | reserved8to15 => rfl
  | construct | reduce | derive | build => cases hi

/-- An operand the port cannot carry is refused, whatever the state (U12). -/
theorem exec_of_not_wellFormed {i : Instr} (hw : i.wellFormed = false) (s : State) :
    exec i s = .refused .notPresentable := by
  cases i with
  | enc d => exact if_neg (ne_true_of_eq_false hw)
  | dec r => exact if_neg (ne_true_of_eq_false hw)
  | nop | rdg | rdh | rds | stat | reserved7 | reserved8to15 | construct | reduce | derive | build => cases hw

/-- The response of a command on a block with state; none for an operand the port cannot carry. -/
theorem responseTo_of_block {s : State} {b : Block} {i : Instr} (hb : s.block = some b)
    (hi : i.isCommand = true) :
    responseTo s i = if i.wellFormed then some (commandResponse i b) else none := by
  cases hw : i.wellFormed with
  | true => simp [responseTo, exec_of_wellFormed hi hw, command_of_block hb]
  | false => simp [responseTo, exec_of_not_wellFormed hw]

/-- A command that has a meaning changes the response alone. -/
theorem exec_command_next {s t : State} {i : Instr} (hi : i.isCommand = true) (h : exec i s = .next t) :
    ∃ r, t = s.answer r := by
  obtain ⟨f, hf⟩ | href := exec_command_cases hi s
  · obtain ⟨b, -, ht⟩ := command_next (hf.symm.trans h)
    exact ⟨f b, ht⟩
  · cases href.symm.trans h

/-- No command word carries an operand of more than `LEN_MAX` elements (R81). -/
theorem decodeCommand_wellFormed (w : CmdWord) : (decodeCommand w).wellFormed = true := by
  have hlen : (operandSeq w).length ≤ lenMax := by
    rw [length_operandSeq]
    exact Nat.le_of_lt_succ (argField w).isLt
  unfold decodeCommand
  split
  case h_2 => exact decide_eq_true hlen
  case h_3 => exact decide_eq_true hlen
  all_goals rfl

/-- Settles O33: the answer is the only update a command makes. -/
theorem commandsWriteNoState : Obligations.CommandsWriteNoState := by
  intro s t w h
  obtain ⟨r, rfl⟩ := exec_command_next (decodeCommand_isCommand w) h
  exact ⟨answer_block s r, answer_cstep s r, answer_port s r, r, answer_rsp s r⟩

/-- Settles O34: every command word decodes to a command the port carries, and `command` refuses without a block. -/
theorem commandsBeforeFirstResetAreRefused : Obligations.CommandsBeforeFirstResetAreRefused := by
  refine ⟨rfl, fun s w hs => ?_⟩
  rw [exec_of_wellFormed (decodeCommand_isCommand w) (decodeCommand_wellFormed w), command, hs]

end Sys2Proof.Machine

/-! Which fields of the block a response depends on (spec/10_state.md R43, R46). -/

namespace Sys2Proof.Machine

/-- On failed blocks every command answers from `ready` and `cfault` alone. -/
theorem commandResponse_of_failed {b c : Block} (hb : b.ready = false) (hc : c.ready = false)
    (hf : b.cfault = c.cfault) (i : Instr) : commandResponse i b = commandResponse i c := by
  cases i with
  | enc d => simp [commandResponse, encResponse, hb, hc]
  | dec r => simp [commandResponse, decResponse, hb, hc]
  | rdg idx => simp [commandResponse, rdgResponse, hb, hc]
  | rdh idx => simp [commandResponse, rdhResponse, hb, hc]
  | rds idx => simp [commandResponse, rdsResponse, hb, hc]
  | stat => simp [commandResponse, hb, hc, hf]
  | nop | reserved7 | reserved8to15 | construct | reduce | derive | build => rfl

theorem encResponse_congr {b c : Block} (hr : b.ready = c.ready) (hg : b.g = c.g) (d : BitSeq) :
    encResponse d b = encResponse d c := by
  rw [encResponse, encResponse, hr, hg]

theorem decResponse_congr {b c : Block} (hr : b.ready = c.ready) (hh : b.h = c.h) (hs : b.syn = c.syn)
    (r : BitSeq) : decResponse r b = decResponse r c := by
  rw [decResponse, decResponse, hr, hh, hs]

/-- Settles O36: a failed block refuses each read of its tables before it is made. -/
theorem failedTablesAreUnreadable : Obligations.FailedTablesAreUnreadable := by
  intro s t b c i hs ht hb hc hf hi
  rw [responseTo_of_block hs hi, responseTo_of_block ht hi, commandResponse_of_failed hb hc hf]

/-- Settles O37: `encResponse` is a function of `ready` and `G`, `decResponse` of `ready`, `H` and `SYN`. -/
theorem encAndDecReadSets : Obligations.EncAndDecReadSets := by
  intro s t b c d hs ht hr
  constructor
  · intro hg
    rw [responseTo_of_block hs rfl, responseTo_of_block ht rfl]
    simp only [commandResponse, encResponse_congr hr hg]
  · intro hh hsyn
    rw [responseTo_of_block hs rfl, responseTo_of_block ht rfl]
    simp only [commandResponse, decResponse_congr hr hh hsyn]

end Sys2Proof.Machine

/-! What a step with no unit pending can do to the block (spec/10_state.md R31, R45). -/

namespace Sys2Proof.Machine

/-- A host event either leaves the block and the counter alone or is a reset step. -/
theorem exec_event_next {s t : State} {e : HostEvent} (h : exec (decodeEvent e) s = .next t) :
    (t.cstep = s.cstep ∧ t.block = s.block) ∨ (t.cstep = .done ∧ t.block = some (construct Config.seedG)) := by
  cases e with
  | reset =>
    cases h
    exact .inr ⟨rfl, rfl⟩
  | command w =>
    obtain ⟨r, rfl⟩ := exec_command_next (decodeCommand_isCommand w) h
    exact .inl ⟨answer_cstep s r, answer_block s r⟩

/-- With no unit pending a step leaves none pending, and writes the block only as a reset step does. -/
theorem step_next_of_done {s t : State} (hc : s.cstep = .done) (h : step s = .next t) :
    t.cstep = .done ∧ (t.block = s.block ∨ t.block = some (construct Config.seedG)) := by
  obtain ⟨-, -, hf⟩ | ⟨e, rest, -, -, hf⟩ | ⟨hu, -⟩ | ⟨hu, -⟩ | ⟨hu, -⟩ := fetch_cases s
  · simp only [step, hf] at h
    cases h
    exact ⟨hc, .inl rfl⟩
  · simp only [step, hf] at h
    obtain ⟨hcs, hb⟩ | ⟨hcs, hb⟩ := exec_event_next h
    · exact ⟨hcs.trans hc, .inl hb⟩
    · exact ⟨hcs, .inr hb⟩
  all_goals cases hc.symm.trans hu

/-- Settles O45: a step keeps the block or writes the construction again. -/
theorem blockNeverChangesAfterReset : Obligations.BlockNeverChangesAfterReset := by
  refine ⟨reset_block, fun s t hc hb h => ?_⟩
  obtain ⟨hct, hsame | hnew⟩ := step_next_of_done hc h
  · exact ⟨hct, hsame.trans hb⟩
  · exact ⟨hct, hnew⟩

end Sys2Proof.Machine

/-! The Reducer returns a matrix with the identity on the left (spec/40_construction.md R114 to R119). -/

namespace Sys2Proof.Machine

/-- Columns before `m` are 1 at their pivot and 0 below it. -/
def ClearedBelow {k n : Nat} (M : Mat k n) (m : Nat) : Prop :=
  ∀ i < m, entry M i i = true ∧ ∀ j, i < j → j < k → entry M j i = false

/-- Pivot columns from `m` on are 0 above their pivot. -/
def ClearedAbove {k n : Nat} (M : Mat k n) (m : Nat) : Prop :=
  ∀ i, m ≤ i → i < k → ∀ j < i, entry M j i = false

theorem isSystematic_of_cleared {k n : Nat} {M : Mat k n} (hb : ClearedBelow M k) (ha : ClearedAbove M 0) :
    IsSystematic M := by
  intro i hi j hj
  obtain hlt | rfl | hgt := Nat.lt_trichotomy i j
  · simp [ha j (Nat.zero_le j) hj i hlt, hlt.ne]
  · simp [(hb i hi).1]
  · simp [(hb j hj).2 i hgt hi, hgt.ne']

/-- One visit of the row loop of `clearRows`: XOR row `i` into row `j` when row `j` has a 1 in column `i`. -/
def clearRow {k n : Nat} (M : Mat k n) (i j : Nat) : Mat k n :=
  if entry M j i then rxor M j i else M

theorem clearRows_cons {k n : Nat} (M : Mat k n) (i j : Nat) (rows : List Nat) :
    clearRows M i (j :: rows) = clearRows (clearRow M i j) i rows := rfl

theorem rowOf_clearRow_same {k n : Nat} (M : Mat k n) (i j : Nat) :
    rowOf (clearRow M i j) j = if entry M j i then rowOf M j ^^^ rowOf M i else rowOf M j := by
  by_cases hj : j < k
  · unfold clearRow
    split <;> simp [rowOf_rxor, hj]
  · simp [clearRow, entry_of_row_ge M (Nat.le_of_not_lt hj)]

theorem rowOf_clearRow_of_ne {k n : Nat} (M : Mat k n) (i : Nat) {j r : Nat} (h : j ≠ r) :
    rowOf (clearRow M i j) r = rowOf M r := by
  unfold clearRow
  split <;> simp [rowOf_rxor, h]

/-- Clearing column `i` XORs row `i` into exactly the listed rows that have a 1 there. -/
theorem rowOf_clearRows {k n : Nat} (M : Mat k n) {i : Nat} {rows : List Nat} (hi : i ∉ rows)
    (hn : rows.Nodup) (r : Nat) :
    rowOf (clearRows M i rows) r =
      if r ∈ rows ∧ entry M r i = true then rowOf M r ^^^ rowOf M i else rowOf M r := by
  induction rows generalizing M with
  | nil => simp [clearRows]
  | cons j rows ih =>
    obtain ⟨hj, hn⟩ := List.nodup_cons.mp hn
    have hpivot := rowOf_clearRow_of_ne M i (List.ne_of_not_mem_cons hi).symm
    rw [clearRows_cons, ih _ (List.not_mem_of_not_mem_cons hi) hn, hpivot]
    by_cases hjr : j = r
    · subst hjr
      simp [hj, rowOf_clearRow_same]
    · rw [entry, rowOf_clearRow_of_ne M i hjr, ← entry]
      simp [Ne.symm hjr]

theorem entry_clearRows {k n : Nat} (M : Mat k n) {i : Nat} {rows : List Nat} (hi : i ∉ rows)
    (hn : rows.Nodup) (r c : Nat) :
    entry (clearRows M i rows) r c =
      (entry M r c ^^ (decide (r ∈ rows) && entry M r i && entry M i c)) := by
  rw [entry, rowOf_clearRows M hi hn]
  by_cases hr : r ∈ rows ∧ entry M r i = true
  · obtain ⟨hmem, hone⟩ := hr
    rw [if_pos ⟨hmem, hone⟩, BitVec.getMsbD_xor, hone, decide_eq_true hmem]
    rfl
  · have hoff : (decide (r ∈ rows) && entry M r i) = false := by simpa using hr
    rw [if_neg hr, hoff, Bool.false_and, Bool.xor_false, entry]

/-- Securing the pivot of row `i` puts a 1 there, and rearranges only the rows from `i` on. -/
theorem securePivot_some {k n : Nat} {M N : Mat k n} {i : Nat} (hi : i < k) (h : securePivot M i = some N) :
    entry N i i = true ∧ (∀ j < i, rowOf N j = rowOf M j) ∧
    ∀ j, i ≤ j → ∃ j', i ≤ j' ∧ rowOf N j = rowOf M j' := by
  unfold securePivot at h
  split at h
  · next hone =>
    cases h
    exact ⟨hone, fun _ _ => rfl, fun j hj => ⟨j, hj, rfl⟩⟩
  · obtain ⟨p, hp, rfl⟩ := Option.map_eq_some_iff.mp h
    obtain ⟨hip, hpk, hone⟩ := pivotRow_some hp
    have hrow := fun r => rowOf_rswap M i p r hi hpk
    refine ⟨?_, fun j hj => ?_, fun j hj => ?_⟩
    · rw [entry, hrow, if_neg hip.ne, if_pos rfl]
      exact hone
    · rw [hrow, if_neg (hj.trans hip).ne, if_neg hj.ne]
    · rw [hrow]
      split
      · exact ⟨i, le_refl i, rfl⟩
      · split
        · exact ⟨p, hip.le, rfl⟩
        · exact ⟨j, hj, rfl⟩

theorem ClearedBelow.securePivot {k n : Nat} {M N : Mat k n} {m : Nat} (hM : ClearedBelow M m) (hm : m < k)
    (h : Machine.securePivot M m = some N) : ClearedBelow N m := by
  obtain ⟨-, habove, hfrom⟩ := securePivot_some hm h
  intro c hc
  refine ⟨by rw [entry, habove c hc]; exact (hM c hc).1, fun j hcj hj => ?_⟩
  by_cases hjm : j < m
  · rw [entry, habove j hjm]
    exact (hM c hc).2 j hcj hj
  · obtain ⟨j', hmj, hrow⟩ := hfrom j (Nat.le_of_not_lt hjm)
    rw [entry, hrow]
    by_cases hj' : j' < k
    · exact (hM c hc).2 j' (hc.trans_le hmj) hj'
    · exact entry_of_row_ge M (Nat.le_of_not_lt hj') c

/-- Clearing below a 1 at pivot `m` leaves the earlier columns alone, because row `m` is 0 in them. -/
theorem ClearedBelow.clearRowsBelow {k n : Nat} {M : Mat k n} {m : Nat} (hM : ClearedBelow M m) (hm : m < k)
    (hone : entry M m m = true) : ClearedBelow (clearRows M m (rowsBelow k m)) (m + 1) := by
  have hentry := entry_clearRows M (i := m) (rows := rowsBelow k m) (by simp [mem_rowsBelow])
    List.nodup_range'
  intro c hc
  obtain hcm | rfl := Nat.lt_succ_iff_lt_or_eq.mp hc
  · have hzero : entry M m c = false := (hM c hcm).2 m hcm hm
    simpa only [hentry, hzero, Bool.and_false, Bool.xor_false] using hM c hcm
  · refine ⟨by simp [hentry, mem_rowsBelow, hone], fun j hcj hj => ?_⟩
    simp [hentry, mem_rowsBelow, hcj, hj, hone]

theorem ClearedBelow.forwardColumn {k n : Nat} {M N : Mat k n} {m : Nat} (hM : ClearedBelow M m) (hm : m < k)
    (h : Machine.forwardColumn M m = some N) : ClearedBelow N (m + 1) := by
  obtain ⟨L, hL, rfl⟩ := Option.map_eq_some_iff.mp h
  exact (hM.securePivot hm hL).clearRowsBelow hm (securePivot_some hm hL).1

/-- The first `m` columns of the forward pass clear the columns before `m`. -/
theorem clearedBelow_of_forwardColumns {k n : Nat} {M N : Mat k n} {m : Nat} (hm : m ≤ k)
    (h : (List.range m).foldlM forwardColumn M = some N) : ClearedBelow N m := by
  induction m generalizing N with
  | zero => exact fun c hc => absurd hc (Nat.not_lt_zero c)
  | succ m ih =>
    simp only [List.range_succ, List.foldlM_append, List.foldlM_cons, List.foldlM_nil, bind_pure] at h
    obtain ⟨L, hL, hN⟩ := Option.bind_eq_some_iff.mp h
    exact (ih (Nat.le_of_succ_le hm) hL).forwardColumn hm hN

theorem clearedBelow_of_forwardPass {k n : Nat} {M N : Mat k n} (h : forwardPass M = some N) :
    ClearedBelow N k :=
  clearedBelow_of_forwardColumns (le_refl k) h

/-- Clearing above pivot `m` keeps the forward pass's work, because row `m` is 0 before its pivot. -/
theorem ClearedBelow.clearRowsAbove {k n : Nat} {M : Mat k n} {m : Nat} (hM : ClearedBelow M k) (hm : m < k) :
    ClearedBelow (clearRows M m (List.range m)) k := by
  have hentry := entry_clearRows M (i := m) (rows := List.range m) (by simp) List.nodup_range
  have hkeep : ∀ r c, c ≤ r → entry (clearRows M m (List.range m)) r c = entry M r c := by
    intro r c hcr
    rw [hentry]
    by_cases hr : r < m
    · simp [(hM c (by omega)).2 m (by omega) hm]
    · simp [hr]
  intro c hc
  refine ⟨by rw [hkeep c c (le_refl c)]; exact (hM c hc).1, fun j hcj hj => ?_⟩
  rw [hkeep j c hcj.le]
  exact (hM c hc).2 j hcj hj

/-- Clearing above pivot `m` clears its column and leaves the later pivot columns 0 above theirs. -/
theorem ClearedAbove.clearRowsAbove {k n : Nat} {M : Mat k n} {m : Nat} (hM : ClearedAbove M (m + 1))
    (hone : entry M m m = true) : ClearedAbove (clearRows M m (List.range m)) m := by
  have hentry := entry_clearRows M (i := m) (rows := List.range m) (by simp) List.nodup_range
  intro c hmc hc j hj
  rw [hentry]
  obtain rfl | hlt := hmc.eq_or_lt
  · simp [hj, hone]
  · simp [hM c hlt hc j hj, hM c hlt hc m hlt]

/-- The last `m` columns of the backward pass finish a matrix that is cleared below and, from `m` on, above. -/
theorem isSystematic_of_backwardColumns {k n : Nat} {M : Mat k n} {m : Nat} (hm : m ≤ k)
    (hb : ClearedBelow M k) (ha : ClearedAbove M m) :
    IsSystematic ((List.range m).reverse.foldl (fun M i => clearRows M i (List.range i)) M) := by
  induction m generalizing M with
  | zero => exact isSystematic_of_cleared hb ha
  | succ m ih =>
    rw [List.range_succ, List.reverse_concat, List.foldl_cons]
    exact ih (Nat.le_of_succ_le hm) (hb.clearRowsAbove hm) (ha.clearRowsAbove (hb m hm).1)

/-- What `REDUCE` returns has the identity on the left (R119). -/
theorem reduceMatrix_isSystematic {k n : Nat} {seed G : Mat k n} (h : reduceMatrix seed = some G) :
    IsSystematic G := by
  obtain ⟨N, hN, rfl⟩ := Option.map_eq_some_iff.mp h
  exact isSystematic_of_backwardColumns (le_refl k) (clearedBelow_of_forwardPass hN)
    fun i hki hik => absurd hik (Nat.not_lt.mpr hki)

end Sys2Proof.Machine

/-! The Derivator and the Table Builder return what a built block holds (spec/40_construction.md R121 to R125). -/

namespace Sys2Proof.Machine

theorem deriveMatrix_isCheckMatrixOf (G : Mat 6 10) : IsCheckMatrixOf G (deriveMatrix 6 4 G) :=
  fun _ hj => ⟨fun _ hi => entry_derive_left 6 4 G hj hi, fun _ hc => entry_derive_right 6 4 G hj hc⟩

@[simp] theorem lookup_emptyTable {r p : Nat} (S : BitVec r) : lookup (emptyTable r p) S = SynEntry.miss p := by
  simp [lookup, emptyTable]

/-- Entering columns in turn fills the entry of each, all of them free and not entry 0 before, and no other. -/
theorem lookup_of_enterColumns {r n p : Nat} {H : Mat r n} {cs : List (Fin n)} {T U : SynTable r p}
    (h : cs.foldlM (enterColumn H) T = some U) :
    (∀ c ∈ cs, pack (col H c) ≠ 0 ∧ (lookup T (col H c)).hit = false ∧
      lookup U (col H c) = { hit := true, pos := BitVec.ofNat p c.val }) ∧
    ∀ S, (∀ c ∈ cs, col H c ≠ S) → lookup U S = lookup T S := by
  induction cs generalizing T with
  | nil =>
    cases h
    exact ⟨fun c hc => absurd hc List.not_mem_nil, fun _ _ => rfl⟩
  | cons d cs ih =>
    rw [List.foldlM_cons] at h
    obtain ⟨V, hV, hU⟩ := Option.bind_eq_some_iff.mp h
    obtain ⟨hd, hfree, hlook⟩ := enterColumn_some hV
    obtain ⟨hin, hout⟩ := ih hU
    have hdV : lookup V (col H d) = { hit := true, pos := BitVec.ofNat p d.val } := by simp [hlook]
    have hne : ∀ c ∈ cs, col H c ≠ col H d := by
      intro c hc heq
      have hcV := (hin c hc).2.1
      simp [heq, hdV] at hcV
    refine ⟨fun c hc => ?_, fun S hS => ?_⟩
    · obtain rfl | hc := List.mem_cons.mp hc
      · exact ⟨hd, hfree, (hout _ hne).trans hdV⟩
      · obtain ⟨hc0, hcV, hcU⟩ := hin c hc
        rw [hlook, if_neg (hne c hc).symm] at hcV
        exact ⟨hc0, hcV, hcU⟩
    · obtain ⟨hdS, hcsS⟩ := List.forall_mem_cons.mp hS
      rw [hout S hcsS, hlook, if_neg hdS]

/-- A table that `BUILD` returns maps each column to its index (R123). -/
theorem lookup_buildTable_col {r n p : Nat} {H : Mat r n} {T : SynTable r p} (h : buildTable p H = some T)
    (c : Fin n) : lookup T (col H c) = { hit := true, pos := BitVec.ofNat p c.val } :=
  ((lookup_of_enterColumns h).1 c (List.mem_finRange c)).2.2

/-- A table that `BUILD` returns misses wherever no column points (R123). -/
theorem lookup_buildTable_of_ne {r n p : Nat} {H : Mat r n} {T : SynTable r p} (h : buildTable p H = some T)
    {S : BitVec r} (hS : ∀ c : Fin n, col H c ≠ S) : lookup T S = SynEntry.miss p :=
  ((lookup_of_enterColumns h).2 S fun c _ => hS c).trans (lookup_emptyTable S)

/-- `BUILD` succeeds only on a matrix with no zero column (R124). -/
theorem col_ne_zero_of_buildTable {r n p : Nat} {H : Mat r n} {T : SynTable r p} (h : buildTable p H = some T)
    (c : Fin n) : col H c ≠ 0#r := by
  have hpack := ((lookup_of_enterColumns h).1 c (List.mem_finRange c)).1
  intro hzero
  simp [hzero, pack] at hpack

theorem buildTable_isSyndromeTableOf {H : Mat 4 10} {T : SynTable 4 4} (h : buildTable 4 H = some T) :
    IsSyndromeTableOf H T :=
  ⟨lookup_buildTable_col h, fun _ => lookup_buildTable_of_ne h,
    lookup_buildTable_of_ne h (col_ne_zero_of_buildTable h)⟩

/-- Settles O59: only the ending with all three tables built is ready, and each unit's result has its invariant. -/
theorem readyConstructionIsBuilt : Obligations.ReadyConstructionIsBuilt := by
  intro seed hok
  obtain ⟨-, h⟩ | ⟨G, -, -, h⟩ | ⟨G, T, hG, hT, h⟩ := construct_cases seed
  · simp [ConstructOK, h] at hok
  · simp [ConstructOK, h] at hok
  · rw [h]
    exact ⟨reduceMatrix_isSystematic hG, deriveMatrix_isCheckMatrixOf G, buildTable_isSyndromeTableOf hT⟩

end Sys2Proof.Machine

/-! What the host sees of a sequence of command words (spec/20_memory.md R68, spec/10_state.md R42). -/

namespace Sys2Proof.Machine

/-- With no unit pending a step runs the event the host presents first (R86, R93). -/
theorem step_of_event {s : State} (hc : s.cstep = .done) (e : HostEvent) (rest : List HostEvent) :
    step { s with port := e :: rest } = exec (decodeEvent e) { s with port := rest } := by
  simp [step, fetch, hc]

/-- The response of a command word on a block with state; `responseTo_of_block` without the operand check. -/
theorem responseTo_decodeCommand {s : State} {b : Block} (hb : s.block = some b) (w : CmdWord) :
    responseTo s (decodeCommand w) = some (commandResponse (decodeCommand w) b) := by
  rw [responseTo_of_block hb (decodeCommand_isCommand w), if_pos (decodeCommand_wellFormed w)]

/-- A command word presented alone to a block with state is taken off the port and answered from the block. -/
theorem step_of_command {s : State} {b : Block} (hb : s.block = some b) (hc : s.cstep = .done) (w : CmdWord) :
    step { s with port := [.command w] } =
      .next (State.answer { s with port := [] } (commandResponse (decodeCommand w) b)) := by
  rw [step_of_event hc, decodeEvent, exec_of_wellFormed (decodeCommand_isCommand w) (decodeCommand_wellFormed w)]
  exact command_of_block (s := { s with port := [] }) hb _

/-- Each command word of a session is answered from the starting block: the answer keeps the block and the counter,
so the rest of the session starts from the same two. -/
theorem session_commands {s : State} {b : Block} (hb : s.block = some b) (hc : s.cstep = .done)
    (ws : List CmdWord) :
    session s (ws.map .command) = ws.map fun w => some (commandResponse (decodeCommand w) b) := by
  induction ws generalizing s with
  | nil => rfl
  | cons w ws ih =>
    have hrest := ih (s := State.answer { s with port := [] } (commandResponse (decodeCommand w) b)) hb hc
    simp only [List.map_cons, session, step_of_command hb hc w, answer_rsp, hrest]

/-- Settles O38: alone or in a session, a command word gets the response it computes from the starting block. -/
theorem responsesDoNotDependOnHistory : Obligations.ResponsesDoNotDependOnHistory := by
  intro s b ws hb hc
  rw [session_commands hb hc]
  simp only [responseTo_decodeCommand hb]

end Sys2Proof.Machine

/-! The decoder row by row, and the encoder read back (spec/30_encoding.md R80 to R86). -/

namespace Sys2Proof

/-- The operand of an instruction is the one the command word carries (R81, R82). -/
def CarriesOperand (w : CmdWord) : Instr → Prop
  | .enc s => operandSeq w = s
  | .dec s => operandSeq w = s
  | .rdg idx => indexField w = idx
  | .rdh idx => indexField w = idx
  | .rds idx => indexField w = idx
  | _ => True

/-- The decoder yields the row of the word's `op` field, with the operand the word carries. -/
theorem decodeCommand_in_row (w : CmdWord) :
    Laws.rowOp (decodeCommand w) = some (opField w) ∧ CarriesOperand w (decodeCommand w) := by
  unfold decodeCommand
  split
  case h_9 =>
    refine ⟨congrArg some (BitVec.eq_of_toNat_eq ?_), trivial⟩
    have hlt := (opField w).isLt
    simp only [BitVec.toNat_ofNat, Fin.val_ofNat]
    grind
  all_goals
    next hop => exact ⟨congrArg some (BitVec.eq_of_toNat_eq hop.symm), by simp [CarriesOperand]⟩

/-- The row and the operand determine the instruction (R84, R85). -/
theorem decodeCommand_eq_iff (w : CmdWord) (i : Instr) :
    decodeCommand w = i ↔ Laws.rowOp i = some (opField w) ∧ CarriesOperand w i := by
  constructor
  · rintro rfl
    exact decodeCommand_in_row w
  · rintro ⟨hrow, hoperand⟩
    cases i with
    | construct | reduce | derive | build => cases hrow
    | nop | stat | reserved7 => simp [decodeCommand, ← Option.some.inj hrow]
    | enc | dec | rdg | rdh | rds =>
      subst hoperand
      simp [decodeCommand, ← Option.some.inj hrow]
    | reserved8to15 low =>
      have hop := Option.some.inj hrow
      fin_cases low <;> simp [decodeCommand, ← hop]

theorem getElem_operandSeq (w : CmdWord) {i : Nat} (h : i < (operandSeq w).length) :
    (operandSeq w)[i] = w.getLsbD (15 - i) := by
  simp [operandSeq]

/-- A sequence the port can carry is read back from the length and the payload it is written to (R81). -/
theorem operandSeq_commandWord (op : BitVec 4) {s : BitSeq} (hs : s.length ≤ lenMax) :
    operandSeq (commandWord op (BitVec.ofNat 4 s.length) (seqWord 16 s)) = s := by
  have hlen : s.length < 16 := Nat.lt_succ_of_le hs
  refine List.ext_getElem ?_ fun i _ hi => ?_
  · rw [length_operandSeq, argField_commandWord, BitVec.toNat_ofNat, Nat.mod_eq_of_lt hlen]
  · have hbit := getMsbD_seqWord 16 s i
    rw [BitVec.getMsbD_eq_getLsbD] at hbit
    rw [getElem_operandSeq, getLsbD_commandWord _ _ _ (by omega)]
    simpa [hi.trans hlen, hi] using hbit

@[simp] theorem indexField_commandWord (op : BitVec 4) (idx : Fin 16) (payload : BitVec 16) :
    indexField (commandWord op (BitVec.ofFin idx) payload) = idx := by
  rw [indexField, argField_commandWord]

/-- The word a command is encoded to carries its operand. -/
theorem carriesOperand_of_encode {i : Instr} {w : CmdWord} (hw : i.wellFormed = true)
    (h : encode i = .command w) : CarriesOperand w i := by
  cases i with
  | enc s => cases h; exact operandSeq_commandWord 1 (of_decide_eq_true hw)
  | dec s => cases h; exact operandSeq_commandWord 2 (of_decide_eq_true hw)
  | rdg | rdh | rds => cases h; exact indexField_commandWord _ _ _
  | nop | stat | reserved7 | reserved8to15 | construct | reduce | derive | build => trivial

/-- The encoder keeps every instruction in its row; one case per lemma of `EncodesInRow`. -/
theorem encodesInRow : (i : Instr) → Laws.EncodesInRow.Statement i
  | .nop => Laws.EncodesInRow.nop
  | .enc s => Laws.EncodesInRow.enc s
  | .dec s => Laws.EncodesInRow.dec s
  | .rdg idx => Laws.EncodesInRow.rdg idx
  | .rdh idx => Laws.EncodesInRow.rdh idx
  | .rds idx => Laws.EncodesInRow.rds idx
  | .stat => Laws.EncodesInRow.stat
  | .reserved7 => Laws.EncodesInRow.reserved7
  | .reserved8to15 low => Laws.EncodesInRow.reserved8to15 low
  | .construct => Laws.EncodesInRow.construct
  | .reduce => Laws.EncodesInRow.reduce
  | .derive => Laws.EncodesInRow.derive
  | .build => Laws.EncodesInRow.build

theorem rowOp_of_encode {i : Instr} {w : CmdWord} (h : encode i = .command w) :
    Laws.rowOp i = some (opField w) := by
  simpa [Laws.EncodesInRow.Statement, h] using encodesInRow i

/-- Settles O1: the encoder writes a command in its row with its operand, which is what the decoder reads; the reset
step and its units have a selection of their own. -/
theorem decodeOfEncodeIsIdentity : Obligations.DecodeOfEncodeIsIdentity := by
  intro i hw
  cases i with
  | construct | reduce | derive | build => rfl
  | nop | enc | dec | rdg | rdh | rds | stat | reserved7 | reserved8to15 =>
    exact congrArg Except.ok <|
      (decodeCommand_eq_iff _ _).mpr ⟨rowOp_of_encode rfl, carriesOperand_of_encode hw rfl⟩

end Sys2Proof

/-! The opcode map by mask and match, and the fields each row ignores (spec/30_encoding.md R81 to R84). -/

namespace Sys2Proof

/-- A mask over the top four bits of the word sees the `op` field alone. -/
theorem and_opMask (w : CmdWord) (mask : BitVec 4) :
    w &&& (mask ++ 0#20) = (opField w &&& mask) ++ 0#20 := by
  have hw : w = opField w ++ w.extractLsb' 0 20 :=
    (BitVec.extractLsb'_append_extractLsb' (w := 4) (len := 20)).symm
  conv_lhs => rw [hw, BitVec.and_append, BitVec.and_zero]

/-- The mask `F00000` selects one operation code. -/
theorem and_opMask_all_eq_iff (w : CmdWord) (op : BitVec 4) :
    w &&& 0xF00000#24 = op ++ 0#20 ↔ op = opField w := by
  have hmask : 0xF00000#24 = BitVec.allOnes 4 ++ 0#20 := rfl
  rw [hmask, and_opMask, BitVec.and_allOnes, BitVec.append_left_inj, eq_comm]

/-- The mask `800000` selects the operation codes from 8 on. -/
theorem and_opMask_top_eq_iff (w : CmdWord) :
    w &&& 0x800000#24 = 0x800000#24 ↔ ∃ low : Fin 8, BitVec.ofNat 4 (8 + low.val) = opField w := by
  have hmask : 0x800000#24 = 8#4 ++ 0#20 := rfl
  have hcodes : ∀ op : BitVec 4, op &&& 8#4 = 8#4 ↔ ∃ low : Fin 8, BitVec.ofNat 4 (8 + low.val) = op := by
    decide
  rw [hmask, and_opMask, BitVec.append_left_inj, hcodes]

/-- Settles O2: the decoder's row is the one of the `op` field, and the masks read that field. -/
theorem opcodeMapSelectsByMaskAndMatch : Obligations.OpcodeMapSelectsByMaskAndMatch := by
  intro w
  simp only [decodeCommand_eq_iff, Laws.rowOp, CarriesOperand, and_opMask_top_eq_iff]
  have hmask := and_opMask_all_eq_iff w
  simp [← hmask]

theorem operandSeq_of_decodeCommand {w : CmdWord} {s : BitSeq}
    (h : decodeCommand w = .enc s ∨ decodeCommand w = .dec s) : s = operandSeq w := by
  obtain h | h := h <;> exact ((decodeCommand_eq_iff w _).mp h).2.symm

theorem indexField_of_decodeCommand {w : CmdWord} {a : Fin 16}
    (h : decodeCommand w = .rdg a ∨ decodeCommand w = .rdh a ∨ decodeCommand w = .rds a) : a = indexField w := by
  obtain h | h | h := h <;> exact ((decodeCommand_eq_iff w _).mp h).2.symm

/-- Two words of one row decode alike when they agree on the operand that row has (R83). -/
theorem decodeCommand_congr {w v : CmdWord} (hop : opField w = opField v)
    (hseq : opField w = 1 ∨ opField w = 2 → operandSeq w = operandSeq v)
    (hidx : opField w = 3 ∨ opField w = 4 ∨ opField w = 5 → indexField w = indexField v) :
    decodeCommand w = decodeCommand v := by
  obtain ⟨hrow, hoperand⟩ := decodeCommand_in_row v
  rw [← hop] at hrow
  refine (decodeCommand_eq_iff w _).mpr ⟨hrow, ?_⟩
  generalize decodeCommand v = i at hrow hoperand
  cases i with
  | enc => exact (hseq (.inl (Option.some.inj hrow).symm)).trans hoperand
  | dec => exact (hseq (.inr (Option.some.inj hrow).symm)).trans hoperand
  | rdg => exact (hidx (.inl (Option.some.inj hrow).symm)).trans hoperand
  | rdh => exact (hidx (.inr (.inl (Option.some.inj hrow).symm))).trans hoperand
  | rds => exact (hidx (.inr (.inr (Option.some.inj hrow).symm))).trans hoperand
  | nop | stat | reserved7 | reserved8to15 | construct | reduce | derive | build => trivial

theorem operandSeq_congr {w v : CmdWord} (hlen : argField w = argField v)
    (hbits : ∀ i < (argField w).toNat, w.getLsbD (15 - i) = v.getLsbD (15 - i)) :
    operandSeq w = operandSeq v := by
  rw [operandSeq, operandSeq, ← hlen]
  exact List.map_congr_left fun i hi => hbits i (List.mem_range.mp hi)

/-- Settles O3: the operand is read from its own fields, and nothing else in the word is read. -/
theorem operandFieldsAndIgnoredFields : Obligations.OperandFieldsAndIgnoredFields := by
  refine ⟨fun w s h => ?_, fun w a h => ?_, fun w v hop => ?_⟩
  · obtain rfl := operandSeq_of_decodeCommand h
    exact ⟨length_operandSeq w, fun i hi => by rw [List.getElem?_eq_getElem hi, getElem_operandSeq]⟩
  · obtain rfl := indexField_of_decodeCommand h
    rfl
  · rw [← opField, ← opField] at hop
    rw [← opField, ← argField, ← argField]
    refine ⟨fun hnone => ?_, fun harg hge => ?_, fun harg hbits => ?_⟩
    · refine decodeCommand_congr hop ?_ ?_
      · rintro (h | h) <;> simp [h] at hnone
      · rintro (h | h | h) <;> simp [h] at hnone
    · refine decodeCommand_congr hop ?_ fun _ => congrArg BitVec.toFin harg
      rintro (h | h) <;> simp [h] at hge
    · exact decodeCommand_congr hop (fun _ => operandSeq_congr harg hbits) fun _ => congrArg BitVec.toFin harg

/-- Settles O4: each word evaluates to its instruction. -/
theorem sampleWordsDecodeAsTheSpecSays : Obligations.SampleWordsDecodeAsTheSpecSays := by
  unfold Obligations.SampleWordsDecodeAsTheSpecSays
  decide

end Sys2Proof

/-! Operands the command port cannot carry (spec/30_encoding.md R81, spec/93_implementation_defined.md U12). -/

namespace Sys2Proof.Machine

/-- Settles O35: the length field has four bits, and a longer operand is not well-formed. -/
theorem longOperandsAreNotPresentable : Obligations.LongOperandsAreNotPresentable := by
  refine ⟨decodeCommand_wellFormed, fun s d hd => ?_⟩
  have hlong : decide (d.length ≤ lenMax) = false := decide_eq_false (Nat.not_le.mpr hd)
  exact ⟨exec_of_not_wellFormed (i := .enc d) hlong s, exec_of_not_wellFormed (i := .dec d) hlong s⟩

end Sys2Proof.Machine

/-! The fields of the response word (spec/30_encoding.md R87 to R90). -/

namespace Sys2Proof.Machine

section
variable (err : BitVec 3) (status : BitVec 2) (value : BitVec 11)

theorem errField_responseFields : (responseFields err status value).extractLsb' 13 3 = err := by
  rw [responseFields, BitVec.extractLsb'_cast, BitVec.extractLsb'_append_eq_of_le (by decide)]
  exact BitVec.extractLsb'_append_eq_left

theorem statusField_responseFields : (responseFields err status value).extractLsb' 11 2 = status := by
  rw [responseFields, BitVec.extractLsb'_cast, BitVec.extractLsb'_append_eq_of_le (Nat.le_refl 11),
    BitVec.extractLsb'_append_eq_right]

theorem errStatusFields_responseFields :
    (responseFields err status value).extractLsb' 11 5 = err ++ status := by
  rw [responseFields, BitVec.extractLsb'_cast, BitVec.extractLsb'_append_eq_left]

theorem valueBits_responseFields {lo len : Nat} (h : lo + len ≤ 11) :
    (responseFields err status value).extractLsb' lo len = value.extractLsb' lo len := by
  rw [responseFields, BitVec.extractLsb'_cast, BitVec.extractLsb'_append_eq_of_add_le h]

/-- Element `i` of the value field stands at bit `10 - i` of the word. -/
theorem getLsbD_responseFields {i : Nat} (h : i ≤ 10) :
    (responseFields err status value).getLsbD (10 - i) = value.getMsbD i := by
  have hi : i < 11 := Nat.lt_succ_of_le h
  have hbit : 10 - i < 11 := by omega
  simp only [responseFields, BitVec.getLsbD_cast, BitVec.getLsbD_append, BitVec.getMsbD_eq_getLsbD, hi, hbit,
    if_true, decide_true, Bool.true_and]

end

/-! A value field that is a sequence with `n` zeros after it. -/

section
variable (err : BitVec 3) (status : BitVec 2) {m n : Nat}

theorem getLsbD_responseFields_append (s : BitVec m) (h : m + n = 11) {i : Nat} (hi : i < m) :
    (responseFields err status ((s ++ 0#n).cast h)).getLsbD (10 - i) = s.getMsbD i := by
  rw [getLsbD_responseFields _ _ _ (by omega), BitVec.getMsbD_cast, BitVec.getMsbD_append,
    if_neg (Nat.not_le.mpr hi)]

theorem zeroBits_responseFields_append (s : BitVec m) (h : m + n = 11) :
    (responseFields err status ((s ++ 0#n).cast h)).extractLsb' 0 n = 0#n := by
  rw [valueBits_responseFields _ _ _ (by omega), BitVec.extractLsb'_cast, BitVec.extractLsb'_append_eq_right]

/-- The last bits of the sequence stand just above the zeros. -/
theorem lastBits_responseFields_append {k : Nat} (s : BitVec k) (u : BitVec m) (h : k + m + n = 11) :
    (responseFields err status ((s ++ u ++ 0#n).cast h)).extractLsb' n m = u := by
  rw [valueBits_responseFields _ _ _ (by omega), BitVec.extractLsb'_cast,
    BitVec.extractLsb'_append_eq_of_le (Nat.le_refl n), Nat.sub_self, BitVec.extractLsb'_append_eq_right]

/-- A flag before a sequence stands at bit 10. -/
theorem flagBit_responseFields_append (b : Bool) (u : BitVec m) (h : 1 + m + n = 11) :
    (responseFields err status ((BitVec.ofBool b ++ u ++ 0#n).cast h)).getLsbD 10 = b := by
  have hbit := getLsbD_responseFields_append err status (BitVec.ofBool b ++ u) h (i := 0) (by omega)
  simpa [BitVec.getMsbD_append] using hbit

end

/-- Settles O5: each response word is put together from its fields, and read back field by field. -/
theorem responseWordFieldsByKind : Obligations.ResponseWordFieldsByKind := by
  refine ⟨rfl, fun c => ?codeword, fun d st => ?decoded, ⟨rfl, rfl, rfl⟩, fun r => ?row, fun e => ?entry,
    fun r c => ?status, rfl, rfl, rfl, rfl⟩
  case codeword =>
    exact ⟨errStatusFields_responseFields _ _ _, fun i hi => getLsbD_responseFields _ _ _ hi⟩
  case decoded =>
    exact ⟨errField_responseFields _ _ _, statusField_responseFields _ _ _, statusField_responseFields _ _ _,
      fun i hi => getLsbD_responseFields_append _ _ d rfl (Nat.lt_succ_of_le hi),
      zeroBits_responseFields_append _ _ d rfl⟩
  case row =>
    have hzero := zeroBits_responseFields_append 0 0 (n := 1) r rfl
    refine ⟨errStatusFields_responseFields _ _ _,
      fun j hj => getLsbD_responseFields_append _ _ r rfl (Nat.lt_succ_of_le hj), ?_⟩
    simpa [Response.word] using congrArg (BitVec.getLsbD · 0) hzero
  case entry =>
    exact ⟨errStatusFields_responseFields _ _ _, flagBit_responseFields_append _ _ e.hit e.pos rfl,
      lastBits_responseFields_append _ _ _ e.pos rfl, zeroBits_responseFields_append _ _ _ rfl⟩
  case status =>
    exact ⟨errStatusFields_responseFields _ _ _, flagBit_responseFields_append _ _ r c.code rfl,
      lastBits_responseFields_append _ _ _ CFault.cNone.code rfl,
      lastBits_responseFields_append _ _ _ CFault.cRank.code rfl,
      lastBits_responseFields_append _ _ _ CFault.cColumns.code rfl, zeroBits_responseFields_append _ _ _ rfl⟩

end Sys2Proof.Machine

/-! A textual line read back (spec/30_encoding.md R92). -/

namespace Sys2Proof.Machine

theorem parseBits_bitText (s : BitSeq) : parseBits (bitText s) = some s := by
  induction s with
  | nil => rfl
  | cons b s ih =>
    rw [bitText, List.map_cons, ← bitText, parseBits, ih]
    cases b <;> rfl

theorem length_bitText (s : BitSeq) : (bitText s).length = s.length :=
  List.length_map _

/-- A bit string is never mistaken for the empty operand's `-`. -/
theorem bitText_ne_dash (s : BitSeq) : bitText s ≠ ['-'] := by
  intro h
  have hbits := parseBits_bitText s
  rw [h] at hbits
  cases hbits

/-- An operand of at most `LEN_MAX` elements is read back (R92). -/
theorem parseOperand_operandText {s : BitSeq} (hs : s.length ≤ lenMax) :
    parseOperand (operandText s) = some s := by
  cases s with
  | nil => rfl
  | cons b s =>
    have hlen : ¬ lenMax < (bitText (b :: s)).length := by
      rw [length_bitText]
      exact Nat.not_lt.mpr hs
    have hne : (bitText (b :: s)).isEmpty = false := rfl
    rw [operandText, List.isEmpty_cons, if_neg Bool.false_ne_true, parseOperand, if_neg (bitText_ne_dash _), hne,
      decide_eq_false hlen, Bool.false_or, if_neg Bool.false_ne_true, parseBits_bitText]

/-- An index is read back; sixteen cases (R92). -/
theorem parseIndex_decimalText : ∀ idx : Fin 16, parseIndex (decimalText idx) = some idx := by
  decide

section
variable (rest : Text)

theorem parseLine_enc : parseLine (['E', 'N', 'C', ' '] ++ rest) = (parseOperand rest).map .enc := rfl
theorem parseLine_dec : parseLine (['D', 'E', 'C', ' '] ++ rest) = (parseOperand rest).map .dec := rfl
theorem parseLine_rdg : parseLine (['R', 'D', 'G', ' '] ++ rest) = (parseIndex rest).map .rdg := rfl
theorem parseLine_rdh : parseLine (['R', 'D', 'H', ' '] ++ rest) = (parseIndex rest).map .rdh := rfl
theorem parseLine_rds : parseLine (['R', 'D', 'S', ' '] ++ rest) = (parseIndex rest).map .rds := rfl

end

/-- Settles O7: the mnemonic decides which reader gets the operand, and that reader reads back what was written. -/
theorem parsedLineIsTheInstruction : Obligations.ParsedLineIsTheInstruction := by
  intro i l hw hl
  cases i with
  | nop | stat | construct => cases hl; rfl
  | enc s => cases hl; rw [parseLine_enc, parseOperand_operandText (of_decide_eq_true hw), Option.map_some]
  | dec s => cases hl; rw [parseLine_dec, parseOperand_operandText (of_decide_eq_true hw), Option.map_some]
  | rdg idx => cases hl; rw [parseLine_rdg, parseIndex_decimalText, Option.map_some]
  | rdh idx => cases hl; rw [parseLine_rdh, parseIndex_decimalText, Option.map_some]
  | rds idx => cases hl; rw [parseLine_rds, parseIndex_decimalText, Option.map_some]
  | reserved7 | reserved8to15 | reduce | derive | build => cases hl

end Sys2Proof.Machine

/-! What one step runs (spec/30_encoding.md R86, R93). -/

namespace Sys2Proof.Machine

/-- With no unit pending a step takes the first event off the port and runs its instruction (R93). -/
theorem step_of_port {s : State} {e : HostEvent} {rest : List HostEvent} (hc : s.cstep = .done)
    (hp : s.port = e :: rest) : step s = exec (decodeEvent e) { s with port := rest } := by
  have h := step_of_event hc e rest
  rwa [← hp] at h

/-- With a unit pending a step runs it, whatever is presented (R86). -/
theorem step_of_unit {s : State} {i : Instr} (h : decode (.unit s.cstep.code) = .ok i) : step s = exec i s := by
  cases hc : s.cstep with
  | reduce | derive | build =>
    rw [hc] at h
    cases h
    simp [step, fetch, hc]
  | done =>
    rw [hc] at h
    cases h

theorem step_of_idle {s : State} (hc : s.cstep = .done) (hp : s.port = []) : step s = .next s := by
  simp [step, fetch, hc, hp]

/-- Settles O8: what `fetch` selects is what `decode` names. -/
theorem stepRunsTheSelectedInstruction : Obligations.StepRunsTheSelectedInstruction := by
  refine ⟨fun s w rest i hc hp hi => ?_, fun s rest i hc hp hi => ?_, fun s i hi => step_of_unit hi,
    fun s hc hp => step_of_idle hc hp⟩
  · cases hi
    exact step_of_port hc hp
  · cases hi
    exact step_of_port hc hp

end Sys2Proof.Machine

/-! The atomic reset step as its three units (spec/30_encoding.md R86, spec/40_construction.md R126). -/

namespace Sys2Proof.Machine

/-- A step that succeeds is the first of a run. -/
theorem run_succ_of_step {s t : State} (h : step s = .next t) (k : Nat) :
    core.run (k + 1) s = core.run k t := by
  have hcore : core.step s = .next t := h
  simp only [Host.Core.run, hcore]

section
variable {s : State} {b : Block} (hb : s.block = some b)
include hb

theorem step_of_reduce (hc : s.cstep = .reduce) :
    step s = .next (s.afterUnit Config.seedG (reduceUnit Config.seedG b) .derive) := by
  rw [step_of_unit (i := .reduce) (by rw [hc]; rfl)]
  exact runUnit_of_block hb _ _

theorem step_of_derive (hc : s.cstep = .derive) :
    step s = .next (s.afterUnit Config.seedG (deriveUnit b) .build) := by
  rw [step_of_unit (i := .derive) (by rw [hc]; rfl)]
  exact runUnit_of_block hb _ _

theorem step_of_build (hc : s.cstep = .build) :
    step s = .next (s.afterUnit Config.seedG (buildUnit b) .done) := by
  rw [step_of_unit (i := .build) (by rw [hc]; rfl)]
  exact runUnit_of_block hb _ _

end

theorem reduceUnit_of_some {seed G : Mat 6 10} (h : reduceMatrix seed = some G) (b : Block) :
    reduceUnit seed b = .ok { b with g := G } := by
  rw [reduceUnit, h]

theorem reduceUnit_of_none {seed : Mat 6 10} (h : reduceMatrix seed = none) (b : Block) :
    reduceUnit seed b = .error .cRank := by
  rw [reduceUnit, h]

theorem buildUnit_of_some {b : Block} {T : SynTable 4 4} (h : buildTable 4 b.h = some T) :
    buildUnit b = .ok { b with syn := T } := by
  rw [buildUnit, h]

theorem buildUnit_of_none {b : Block} (h : buildTable 4 b.h = none) : buildUnit b = .error .cColumns := by
  rw [buildUnit, h]

/-- A reset step has begun and its first unit is pending (R126). -/
def State.resetBegun (s : State) : State :=
  { s with block := some (beginConstruct Config.seedG), cstep := .reduce }

/-- The block the Reducer and the Derivator leave for the Table Builder. -/
def reducedAndDerived (G : Mat 6 10) : Block :=
  { beginConstruct Config.seedG with g := G, h := deriveMatrix 6 4 G }

/-- A rank fault ends the reset step after its first unit (R116, R187). -/
theorem run_units_of_rankFault (s : State) (hG : reduceMatrix Config.seedG = none) :
    core.run 1 s.resetBegun = .next (s.afterUnit Config.seedG (.error .cRank) .done) := by
  have hstep := step_of_reduce (s := s.resetBegun) rfl rfl
  rw [reduceUnit_of_none hG] at hstep
  exact run_succ_of_step hstep 0

/-- With a reduced matrix all three units run, and the Table Builder's result ends the reset step. -/
theorem run_units_of_reduced (s : State) {G : Mat 6 10} (hG : reduceMatrix Config.seedG = some G) :
    core.run 3 s.resetBegun = .next (s.afterUnit Config.seedG (buildUnit (reducedAndDerived G)) .done) := by
  have hstep := step_of_reduce (s := s.resetBegun) rfl rfl
  rw [reduceUnit_of_some hG] at hstep
  rw [run_succ_of_step hstep, run_succ_of_step (step_of_derive rfl rfl)]
  exact run_succ_of_step (step_of_build rfl rfl) 0

/-- Settles O44: the units end as `construct_cases` says `CONSTRUCT` ends, in the same state. -/
theorem resetStepIsItsUnitsInOrder : Obligations.ResetStepIsItsUnitsInOrder := by
  intro s
  have hexec : exec .construct s = .next (s.afterUnit Config.seedG (.ok (construct Config.seedG)) .done) := rfl
  have hnot : ∀ c, construct Config.seedG = fatal Config.seedG c → ¬ ConstructOK Config.seedG := fun c h => by
    simp [ConstructOK, h]
  obtain ⟨hG, h⟩ | ⟨G, hG, hT, h⟩ | ⟨G, T, hG, hT, h⟩ := construct_cases Config.seedG
  · refine ⟨1, _, fatal Config.seedG .cRank, by decide, by decide, run_units_of_rankFault s hG, rfl, rfl,
      .inr ⟨hnot _ h, ?_⟩⟩
    rw [hexec, h]
    rfl
  · have hrun := run_units_of_reduced s hG
    rw [buildUnit_of_none (b := reducedAndDerived G) hT] at hrun
    refine ⟨3, _, fatal Config.seedG .cColumns, by decide, by decide, hrun, rfl, rfl, .inr ⟨hnot _ h, ?_⟩⟩
    rw [hexec, h]
    rfl
  · have hrun := run_units_of_reduced s hG
    rw [buildUnit_of_some (b := reducedAndDerived G) hT] at hrun
    refine ⟨3, _, { reducedAndDerived G with syn := T }, by decide, by decide, hrun, rfl, rfl,
      .inl ⟨by simp [ConstructOK, h], rfl, ?_⟩⟩
    rw [hexec, h]
    rfl

end Sys2Proof.Machine

/-! Matrices over GF(2): unit vectors, associativity of the products and two-sided inverses
(spec/00_scope.md R15, R16). -/

namespace Sys2Proof

theorem and_xorBelow (b : Bool) (f : Nat → Bool) (n : Nat) :
    (b && xorBelow f n) = xorBelow (fun j => b && f j) n := by
  induction n with
  | zero => exact Bool.and_false b
  | succ n ih => rw [xorBelow, xorBelow, Bool.and_xor_distrib_left, ih]

/-- The order of two nested sums does not matter. -/
theorem xorBelow_comm (f : Nat → Nat → Bool) (m n : Nat) :
    xorBelow (fun i => xorBelow (f i) n) m = xorBelow (fun j => xorBelow (fun i => f i j) m) n := by
  induction n with
  | zero => exact xorBelow_false m
  | succ n ih => rw [xorBelow, ← ih, ← xorBelow_xor]; rfl

theorem xorBelow_add (f : Nat → Bool) (m n : Nat) :
    xorBelow f (m + n) = (xorBelow f m ^^ xorBelow (fun j => f (m + j)) n) := by
  induction n with
  | zero => exact (Bool.xor_false _).symm
  | succ n ih => rw [← Nat.add_assoc, xorBelow, xorBelow, ih, Bool.xor_assoc]

/-- The sequence of length `n` with a 1 at position `i` alone: row `i` of the identity. -/
def unitVec (n i : Nat) : BitVec n :=
  ofElems n fun j => i == j

@[simp] theorem getMsbD_unitVec (n i j : Nat) :
    (unitVec n i).getMsbD j = (decide (j < n) && i == j) := by
  rw [unitVec, getMsbD_ofElems]

@[simp] theorem rowOf_identity {k i : Nat} (h : i < k) : rowOf (identity k) i = unitVec k i :=
  rowOf_ofRows _ h

@[simp] theorem dot_unitVec {n : Nat} (s : BitVec n) (i : Nat) : dot s (unitVec n i) = s.getMsbD i := by
  rw [dot_eq, xorBelow_single _ i n fun j _ hne => by simp [hne.symm]]
  by_cases h : i < n
  · simp [h]
  · simp [h, getMsbD_of_ge s (Nat.le_of_not_lt h)]

theorem col_identity {k j : Nat} (h : j < k) : col (identity k) j = unitVec k j :=
  eq_of_elements fun i hi => by
    rw [getMsbD_col, entry_identity hi h, getMsbD_unitVec, decide_eq_true hi, Bool.true_and, BEq.comm]

@[simp] theorem vecMul_identity {k : Nat} (x : BitVec k) : vecMul x (identity k) = x :=
  eq_of_elements fun j hj => by rw [getMsbD_vecMul, col_identity hj, dot_unitVec, decide_eq_true hj, Bool.true_and]

@[simp] theorem mulVec_identity {k : Nat} (y : BitVec k) : mulVec (identity k) y = y :=
  eq_of_elements fun i hi => by
    rw [getMsbD_mulVec, rowOf_identity hi, dot_comm, dot_unitVec, decide_eq_true hi, Bool.true_and]

@[simp] theorem mulVec_unitVec {k n : Nat} (M : Mat k n) (j : Nat) : mulVec M (unitVec n j) = col M j :=
  eq_of_elements fun i hi => by
    rw [getMsbD_mulVec, dot_unitVec, getMsbD_col, decide_eq_true hi, Bool.true_and, entry]

@[simp] theorem vecMul_unitVec {k n : Nat} (M : Mat k n) (i : Nat) : vecMul (unitVec k i) M = rowOf M i :=
  eq_of_elements fun j hj => by
    rw [getMsbD_vecMul, dot_comm, dot_unitVec, getMsbD_col, decide_eq_true hj, Bool.true_and, entry]

@[simp] theorem vecMul_zero {k n : Nat} (M : Mat k n) : vecMul 0#k M = 0#n :=
  eq_of_elements fun j _ => by rw [getMsbD_vecMul, dot_comm, dot_zero_right, Bool.and_false, BitVec.getMsbD_zero]

@[simp] theorem mulVec_zero {k n : Nat} (M : Mat k n) : mulVec M 0#n = 0#k :=
  eq_of_elements fun i _ => by rw [getMsbD_mulVec, dot_zero_right, Bool.and_false, BitVec.getMsbD_zero]

/-- `x · M · yᵗ` may be bracketed either way; every associativity below comes from this one. -/
theorem dot_vecMul {k n : Nat} (x : BitVec k) (M : Mat k n) (y : BitVec n) :
    dot (vecMul x M) y = dot x (mulVec M y) := by
  have hleft : ∀ j < n, ((vecMul x M).getMsbD j && y.getMsbD j) =
      xorBelow (fun i => x.getMsbD i && (entry M i j && y.getMsbD j)) k := by
    intro j hj
    rw [getMsbD_vecMul, decide_eq_true hj, Bool.true_and, dot_eq, Bool.and_comm, and_xorBelow]
    exact xorBelow_congr fun i _ => by rw [getMsbD_col, Bool.and_comm, Bool.and_assoc]
  have hright : ∀ i < k, (x.getMsbD i && (mulVec M y).getMsbD i) =
      xorBelow (fun j => x.getMsbD i && (entry M i j && y.getMsbD j)) n := by
    intro i hi
    rw [getMsbD_mulVec, decide_eq_true hi, Bool.true_and, dot_eq, and_xorBelow]
    rfl
  rw [dot_eq, dot_eq, xorBelow_congr hleft, xorBelow_congr hright, xorBelow_comm]

@[simp] theorem rowOf_matMul {k m n : Nat} (A : Mat k m) (B : Mat m n) {i : Nat} (hi : i < k) :
    rowOf (matMul A B) i = vecMul (rowOf A i) B :=
  rowOf_ofRows _ hi

theorem col_matMul {k m n : Nat} (A : Mat k m) (B : Mat m n) {j : Nat} (hj : j < n) :
    col (matMul A B) j = mulVec A (col B j) :=
  eq_of_elements fun i hi => by
    rw [getMsbD_col, entry_matMul A B hi hj, getMsbD_mulVec, decide_eq_true hi, Bool.true_and]

theorem vecMul_matMul {k m n : Nat} (x : BitVec k) (A : Mat k m) (B : Mat m n) :
    vecMul x (matMul A B) = vecMul (vecMul x A) B :=
  eq_of_elements fun j hj => by rw [getMsbD_vecMul, getMsbD_vecMul, col_matMul A B hj, dot_vecMul]

theorem mulVec_matMul {k m n : Nat} (A : Mat k m) (B : Mat m n) (y : BitVec n) :
    mulVec (matMul A B) y = mulVec A (mulVec B y) :=
  eq_of_elements fun i hi => by rw [getMsbD_mulVec, getMsbD_mulVec, rowOf_matMul A B hi, dot_vecMul]

/-- A left inverse of a square matrix is a right inverse too: multiplying by `A` reaches every sequence, so on the
finitely many sequences it is one to one. -/
theorem matMul_eq_identity_comm {k : Nat} {A B : Mat k k} (h : matMul B A = identity k) :
    matMul A B = identity k := by
  have hcancel : ∀ w : BitVec k, vecMul (vecMul w B) A = w := fun w => by
    rw [← vecMul_matMul, h, vecMul_identity]
  have hinj : Function.Injective fun x : BitVec k => vecMul x A :=
    Finite.injective_iff_surjective.mpr fun w => ⟨vecMul w B, hcancel w⟩
  refine eq_of_rows fun i hi => hinj ?_
  calc vecMul (rowOf (matMul A B) i) A = rowOf A i := by rw [rowOf_matMul A B hi, hcancel]
    _ = vecMul (rowOf (identity k) i) A := by rw [rowOf_identity hi, vecMul_unitVec]

@[simp] theorem rowOf_leftBlock {k n : Nat} (c : Nat) (M : Mat k n) {i : Nat} (hi : i < k) :
    rowOf (leftBlock c M) i = firstBits c (rowOf M i) :=
  rowOf_ofRows _ hi

theorem col_leftBlock {k n c : Nat} (M : Mat k n) {j : Nat} (hj : j < c) : col (leftBlock c M) j = col M j :=
  eq_of_elements fun i hi => by rw [getMsbD_col, getMsbD_col, entry_leftBlock c M hi hj]

/-- Taking the first columns commutes with a product from the left. -/
theorem firstBits_vecMul {k n c : Nat} (hc : c ≤ n) (x : BitVec k) (M : Mat k n) :
    firstBits c (vecMul x M) = vecMul x (leftBlock c M) :=
  eq_of_elements fun j hj => by simp [hj, hj.trans_le hc, col_leftBlock M hj]

theorem leftBlock_matMul {k m n c : Nat} (hc : c ≤ n) (A : Mat k m) (B : Mat m n) :
    leftBlock c (matMul A B) = matMul A (leftBlock c B) :=
  eq_of_rows fun i hi => by rw [rowOf_leftBlock _ _ hi, rowOf_matMul _ _ hi, rowOf_matMul _ _ hi, firstBits_vecMul hc]

end Sys2Proof

/-! Row spaces, and the row primitives (spec/40_construction.md R110). -/

namespace Sys2Proof.Machine

theorem invertible_of_left_inverse {k : Nat} {A B : Mat k k} (h : matMul B A = identity k) : Invertible A :=
  ⟨B, h, matMul_eq_identity_comm h⟩

theorem inRowSpace_rowOf {k n : Nat} (M : Mat k n) (i : Nat) : InRowSpace M (rowOf M i) :=
  ⟨unitVec k i, (vecMul_unitVec M i).symm⟩

theorem InRowSpace.xor {k n : Nat} {M : Mat k n} {v w : BitVec n} (hv : InRowSpace M v) (hw : InRowSpace M w) :
    InRowSpace M (v ^^^ w) := by
  obtain ⟨x, rfl⟩ := hv
  obtain ⟨y, rfl⟩ := hw
  exact ⟨x ^^^ y, (vecMul_xor x y M).symm⟩

/-- Rows that lie in a row space are a matrix times the matrix of that space. -/
theorem exists_eq_matMul_of_rows {k m n : Nat} {M : Mat k n} {N : Mat m n}
    (h : ∀ i < k, InRowSpace N (rowOf M i)) : ∃ X : Mat k m, M = matMul X N := by
  choose! x hx using h
  exact ⟨ofRows k x, eq_of_rows fun i hi => by rw [rowOf_matMul _ _ hi, rowOf_ofRows _ hi, ← hx i hi]⟩

theorem InRowSpace.of_rows {k m n : Nat} {M : Mat k n} {N : Mat m n} (h : ∀ i < k, InRowSpace N (rowOf M i))
    {w : BitVec n} (hw : InRowSpace M w) : InRowSpace N w := by
  obtain ⟨X, rfl⟩ := exists_eq_matMul_of_rows h
  obtain ⟨x, rfl⟩ := hw
  exact ⟨vecMul x X, vecMul_matMul x X N⟩

/-- The two matrices have the same row space (R119). -/
def SameRowSpace {k n : Nat} (M N : Mat k n) : Prop :=
  ∀ w, InRowSpace M w ↔ InRowSpace N w

theorem SameRowSpace.refl {k n : Nat} (M : Mat k n) : SameRowSpace M M :=
  fun _ => Iff.rfl

theorem SameRowSpace.symm {k n : Nat} {M N : Mat k n} (h : SameRowSpace M N) : SameRowSpace N M :=
  fun w => (h w).symm

theorem SameRowSpace.trans {k n : Nat} {L M N : Mat k n} (h : SameRowSpace L M) (h' : SameRowSpace M N) :
    SameRowSpace L N :=
  fun w => (h w).trans (h' w)

theorem sameRowSpace_of_rows {k n : Nat} {M N : Mat k n} (hMN : ∀ i < k, InRowSpace N (rowOf M i))
    (hNM : ∀ i < k, InRowSpace M (rowOf N i)) : SameRowSpace M N :=
  fun _ => ⟨InRowSpace.of_rows hMN, InRowSpace.of_rows hNM⟩

/-- An operation that is its own inverse and stays in the row space keeps the row space. -/
theorem sameRowSpace_of_involution {k n : Nat} {f : Mat k n → Mat k n} {M : Mat k n} (hinv : f (f M) = M)
    (hrows : ∀ (N : Mat k n), ∀ r < k, InRowSpace N (rowOf (f N) r)) : SameRowSpace (f M) M :=
  sameRowSpace_of_rows (hrows M) fun r hr => by simpa only [hinv] using hrows (f M) r hr

theorem SameRowSpace.leftBlock {k n c : Nat} (hc : c ≤ n) {M N : Mat k n} (h : SameRowSpace M N) :
    SameRowSpace (leftBlock c M) (leftBlock c N) := by
  have hsub : ∀ {M N : Mat k n}, SameRowSpace M N → ∀ i < k, InRowSpace (Sys2Proof.leftBlock c N)
      (rowOf (Sys2Proof.leftBlock c M) i) := by
    intro M N h i hi
    obtain ⟨x, hx⟩ := (h _).mp (inRowSpace_rowOf M i)
    exact ⟨x, by rw [rowOf_leftBlock c M hi, hx, firstBits_vecMul hc]⟩
  exact sameRowSpace_of_rows (hsub h) (hsub h.symm)

/-! The primitives -/

section
variable {k n : Nat} (M : Mat k n) {i j : Nat}

theorem rswap_rswap (hi : i < k) (hj : j < k) : rswap (rswap M i j) i j = M := by
  refine eq_of_rows fun r _ => ?_
  rw [rowOf_rswap _ i j r hi hj, rowOf_rswap M i j i hi hj, rowOf_rswap M i j j hi hj, rowOf_rswap M i j r hi hj]
  grind

theorem rxor_rxor (hij : i ≠ j) : rxor (rxor M j i) j i = M := by
  refine eq_of_rows fun r hr => ?_
  have hpivot : rowOf (rxor M j i) i = rowOf M i := by rw [rowOf_rxor, if_neg fun h => hij h.1.symm]
  rw [rowOf_rxor, hpivot]
  by_cases hjr : j = r
  · subst hjr
    simp [hr, rowOf_rxor]
  · simp [hjr, rowOf_rxor]

theorem rswap_self (hi : i < k) : rswap M i i = M :=
  eq_of_rows fun r _ => by
    rw [rowOf_rswap M i i r hi hi]
    grind

theorem rswap_sameRowSpace (hi : i < k) (hj : j < k) : SameRowSpace (rswap M i j) M := by
  refine sameRowSpace_of_involution (f := (rswap · i j)) (rswap_rswap M hi hj) fun N r _ => ?_
  rw [rowOf_rswap N i j r hi hj]
  split
  · exact inRowSpace_rowOf N i
  · split
    · exact inRowSpace_rowOf N j
    · exact inRowSpace_rowOf N r

theorem rxor_sameRowSpace (hij : i ≠ j) : SameRowSpace (rxor M j i) M := by
  refine sameRowSpace_of_involution (f := (rxor · j i)) (rxor_rxor M hij) fun N r _ => ?_
  rw [rowOf_rxor]
  split
  · exact (inRowSpace_rowOf N j).xor (inRowSpace_rowOf N i)
  · exact inRowSpace_rowOf N r

end

/-- Settles O48: rows after each primitive; each is its own inverse and stays in the row space. -/
theorem rowPrimitivesExchangeAndXorRows : Obligations.RowPrimitivesExchangeAndXorRows := by
  intro k n M i j hi hj hij
  have hswap := fun r => rowOf_rswap M i j r hi hj
  have hxor := fun r => rowOf_rxor M j i r
  refine ⟨⟨?_, ?_, fun r _ hri hrj => ?_⟩, ⟨?_, fun r _ hrj => ?_⟩, rswap_rswap M hi hj, rxor_rxor M hij,
    rswap_self M hi, fun w => ⟨rswap_sameRowSpace M hi hj w, rxor_sameRowSpace M hij w⟩⟩
  · rw [hswap, if_neg hij, if_pos rfl]
  · rw [hswap, if_pos rfl]
  · rw [hswap, if_neg hrj, if_neg hri]
  · rw [hxor, if_pos ⟨rfl, hj⟩]
  · rw [hxor, if_neg fun h => hrj h.1.symm]

end Sys2Proof.Machine

/-! The forward pass column by column (spec/40_construction.md R114 to R116). -/

namespace Sys2Proof.Machine

theorem pivotRow_eq_some_iff {k n : Nat} (M : Mat k n) (i p : Nat) :
    pivotRow M i = some p ↔
      i < p ∧ p < k ∧ entry M p i = true ∧ ∀ j, i < j → j < p → entry M j i = false := by
  rw [pivotRow, rowsBelow, List.find?_range'_eq_some, ← rowsBelow, mem_rowsBelow]
  simp only [Bool.not_eq_true', Nat.succ_le_iff]
  tauto

theorem pivotRow_eq_none_iff {k n : Nat} (M : Mat k n) (i : Nat) :
    pivotRow M i = none ↔ ∀ j, i < j → j < k → entry M j i = false := by
  simp only [pivotRow, List.find?_eq_none, mem_rowsBelow, Bool.not_eq_true, and_imp]

theorem securePivot_of_one {k n : Nat} {M : Mat k n} {i : Nat} (h : entry M i i = true) :
    securePivot M i = some M :=
  if_pos h

theorem securePivot_of_zero {k n : Nat} {M : Mat k n} {i : Nat} (h : entry M i i = false) :
    securePivot M i = (pivotRow M i).map (rswap M i) :=
  if_neg (ne_true_of_eq_false h)

theorem securePivot_eq_none_iff {k n : Nat} (M : Mat k n) (i : Nat) :
    securePivot M i = none ↔ entry M i i = false ∧ ∀ j, i < j → j < k → entry M j i = false := by
  cases h : entry M i i with
  | true => simp [securePivot_of_one h]
  | false => simp [securePivot_of_zero h, pivotRow_eq_none_iff]

/-- Settles O49: the search is a `find?` over the rows below in increasing order. -/
theorem pivotSearchTakesTheLeastRow : Obligations.PivotSearchTakesTheLeastRow := by
  refine fun k n M i _ => ⟨pivotRow_eq_some_iff M i, securePivot_of_one, fun hzero p hp => ?_,
    securePivot_eq_none_iff M i⟩
  rw [securePivot_of_zero hzero, hp, Option.map_some]

/-- Column `i` of the forward pass secures its pivot and then clears below it. -/
theorem forwardColumn_some {k n : Nat} {M N : Mat k n} {i : Nat} (h : forwardColumn M i = some N) :
    ∃ L, securePivot M i = some L ∧ N = clearRows L i (rowsBelow k i) := by
  obtain ⟨L, hL, rfl⟩ := Option.map_eq_some_iff.mp h
  exact ⟨L, hL, rfl⟩

theorem forwardColumn_eq_none_iff {k n : Nat} (M : Mat k n) (i : Nat) :
    forwardColumn M i = none ↔ securePivot M i = none :=
  Option.map_eq_none_iff

theorem nodup_rowsBelow (k i : Nat) : (rowsBelow k i).Nodup :=
  List.nodup_range'

theorem rowOf_clearRowsBelow {k n : Nat} (M : Mat k n) (i r : Nat) :
    rowOf (clearRows M i (rowsBelow k i)) r =
      if (i < r ∧ r < k) ∧ entry M r i = true then rowOf M r ^^^ rowOf M i else rowOf M r := by
  have hi : i ∉ rowsBelow k i := by simp [mem_rowsBelow]
  simp only [rowOf_clearRows M hi (nodup_rowsBelow k i), mem_rowsBelow]

/-- Settles O50: `rowOf_clearRowsBelow` for one column, the invariant `ClearedBelow` for the whole pass. -/
theorem forwardPassClearsBelowThePivots : Obligations.ForwardPassClearsBelowThePivots := by
  refine ⟨fun k n M N i hi h => ?_, fun k n M N h => clearedBelow_of_forwardPass h⟩
  obtain ⟨L, hL, rfl⟩ := forwardColumn_some h
  obtain ⟨hone, habove, -⟩ := securePivot_some hi hL
  refine ⟨?_, fun j hij hj => ?_, fun j hji => ?_⟩
  · rw [entry, rowOf_clearRowsBelow, if_neg (by omega)]
    exact hone
  · rw [entry, rowOf_clearRowsBelow]
    split
    · next h =>
      rw [BitVec.getMsbD_xor, ← entry, ← entry, h.2, hone]
      rfl
    · next h => exact Bool.eq_false_of_not_eq_true fun hj1 => h ⟨⟨hij, hj⟩, hj1⟩
  · rw [rowOf_clearRowsBelow, if_neg (by omega), habove j hji]

end Sys2Proof.Machine

/-! What `REDUCE` returns and when it faults (spec/40_construction.md R118, R119). -/

namespace Sys2Proof.Machine

/-! Every pass keeps the row space -/

theorem clearRows_sameRowSpace {k n : Nat} (M : Mat k n) {i : Nat} {rows : List Nat} (hi : i ∉ rows) :
    SameRowSpace (clearRows M i rows) M := by
  induction rows generalizing M with
  | nil => exact .refl M
  | cons j rows ih =>
    rw [clearRows_cons]
    refine (ih _ (List.not_mem_of_not_mem_cons hi)).trans ?_
    unfold clearRow
    split
    · exact rxor_sameRowSpace M (List.ne_of_not_mem_cons hi)
    · exact .refl M

theorem securePivot_sameRowSpace {k n : Nat} {M N : Mat k n} {i : Nat} (hi : i < k)
    (h : securePivot M i = some N) : SameRowSpace N M := by
  cases hone : entry M i i with
  | true =>
    cases (securePivot_of_one hone).symm.trans h
    exact .refl M
  | false =>
    rw [securePivot_of_zero hone] at h
    obtain ⟨p, hp, rfl⟩ := Option.map_eq_some_iff.mp h
    exact rswap_sameRowSpace M hi (pivotRow_some hp).2.1

theorem forwardColumn_sameRowSpace {k n : Nat} {M N : Mat k n} {i : Nat} (hi : i < k)
    (h : forwardColumn M i = some N) : SameRowSpace N M := by
  obtain ⟨L, hL, rfl⟩ := forwardColumn_some h
  exact (clearRows_sameRowSpace L (by simp [mem_rowsBelow])).trans (securePivot_sameRowSpace hi hL)

theorem forwardColumns_sameRowSpace {k n : Nat} {M N : Mat k n} {columns : List Nat}
    (hc : ∀ i ∈ columns, i < k) (h : columns.foldlM forwardColumn M = some N) : SameRowSpace N M := by
  induction columns generalizing M with
  | nil =>
    cases h
    exact .refl _
  | cons i columns ih =>
    rw [List.foldlM_cons] at h
    obtain ⟨L, hL, hN⟩ := Option.bind_eq_some_iff.mp h
    obtain ⟨hi, hc⟩ := List.forall_mem_cons.mp hc
    exact (ih hc hN).trans (forwardColumn_sameRowSpace hi hL)

theorem backwardColumns_sameRowSpace {k n : Nat} (M : Mat k n) (columns : List Nat) :
    SameRowSpace (columns.foldl (fun M i => clearRows M i (List.range i)) M) M := by
  induction columns generalizing M with
  | nil => exact .refl M
  | cons i columns ih => exact (ih _).trans (clearRows_sameRowSpace M List.not_mem_range_self)

theorem reduceMatrix_sameRowSpace {k n : Nat} {seed G : Mat k n} (h : reduceMatrix seed = some G) :
    SameRowSpace G seed := by
  obtain ⟨N, hN, rfl⟩ := Option.map_eq_some_iff.mp h
  exact (backwardColumns_sameRowSpace N _).trans
    (forwardColumns_sameRowSpace (fun i hi => List.mem_range.mp hi) hN)

/-! The systematic matrix of a row space -/

theorem isSystematic_iff_leftBlock {k n : Nat} (M : Mat k n) :
    IsSystematic M ↔ leftBlock k M = identity k := by
  constructor
  · intro h
    refine eq_of_entries fun i hi j hj => ?_
    rw [entry_leftBlock k M hi hj, entry_identity hi hj, h i hi j hj]
    rfl
  · intro h i hi j hj
    rw [← entry_leftBlock k M hi hj, h, entry_identity hi hj]
    rfl

/-- The coefficients of a combination of the rows of a systematic matrix are its first elements. -/
theorem IsSystematic.firstBits_vecMul {k n : Nat} (hkn : k ≤ n) {G : Mat k n} (hG : IsSystematic G)
    (x : BitVec k) : firstBits k (vecMul x G) = x := by
  rw [Sys2Proof.firstBits_vecMul hkn, (isSystematic_iff_leftBlock G).mp hG, vecMul_identity]

/-- A member of the row space of a systematic matrix is the combination its first elements name. -/
theorem IsSystematic.eq_vecMul_firstBits {k n : Nat} (hkn : k ≤ n) {G : Mat k n} (hG : IsSystematic G)
    {w : BitVec n} (hw : InRowSpace G w) : w = vecMul (firstBits k w) G := by
  obtain ⟨x, rfl⟩ := hw
  rw [hG.firstBits_vecMul hkn]

/-- At most one systematic matrix has a given row space (R119). -/
theorem IsSystematic.eq_of_sameRowSpace {k n : Nat} (hkn : k ≤ n) {M N : Mat k n} (hM : IsSystematic M)
    (hN : IsSystematic N) (h : SameRowSpace M N) : M = N := by
  refine eq_of_rows fun i hi => ?_
  have hunit : firstBits k (rowOf M i) = unitVec k i := by rw [← vecMul_unitVec, hM.firstBits_vecMul hkn]
  rw [hN.eq_vecMul_firstBits hkn ((h _).mp (inRowSpace_rowOf M i)), hunit, vecMul_unitVec]

/-- A systematic matrix with the seed's row space is a left inverse of the seed's left block, times the seed. -/
theorem exists_left_inverse_of_systematic {k n : Nat} (hkn : k ≤ n) {G seed : Mat k n} (hG : IsSystematic G)
    (h : SameRowSpace G seed) :
    ∃ B : Mat k k, matMul B (leftBlock k seed) = identity k ∧ G = matMul B seed := by
  obtain ⟨B, rfl⟩ := exists_eq_matMul_of_rows fun i _ => (h _).mp (inRowSpace_rowOf G i)
  exact ⟨B, by rw [← leftBlock_matMul hkn, (isSystematic_iff_leftBlock _).mp hG], rfl⟩

/-! A missing pivot -/

/-- With the columns before `m` cleared below their pivots and no 1 left in column `m`, some sequence with a 1 at
position `m` has every product with a row 0; its earlier elements are found from row `m − 1` upwards. -/
theorem exists_kernel_of_missing_pivot {k n m : Nat} {M : Mat k n} (hmn : m < n)
    (hM : ClearedBelow M m) (hcol : ∀ j, m ≤ j → j < k → entry M j m = false) :
    ∃ y : BitVec n, y.getMsbD m = true ∧ mulVec M y = 0#k := by
  have hrows : ∀ t ≤ m, ∃ y : BitVec n, y.getMsbD m = true ∧
      ∀ r, m - t ≤ r → r < k → dot (rowOf M r) y = false := by
    intro t
    induction t with
    | zero =>
      refine fun _ => ⟨unitVec n m, by simp [hmn], fun r hr hrk => ?_⟩
      rw [dot_unitVec]
      exact hcol r hr hrk
    | succ t ih =>
      intro ht
      obtain ⟨y, hym, hy⟩ := ih (Nat.le_of_succ_le ht)
      obtain ⟨hone, hbelow⟩ := hM (m - (t + 1)) (by omega)
      cases hrow : dot (rowOf M (m - (t + 1))) y with
      | false =>
        refine ⟨y, hym, fun r hr hrk => ?_⟩
        obtain rfl | hlt := hr.eq_or_lt
        · exact hrow
        · exact hy r (by omega) hrk
      | true =>
        refine ⟨y ^^^ unitVec n (m - (t + 1)), ?_, fun r hr hrk => ?_⟩
        · have hne : m - (t + 1) ≠ m := by omega
          simp [hym, hne]
        · rw [dot_xor_right, dot_unitVec, ← entry]
          obtain rfl | hlt := hr.eq_or_lt
          · rw [hrow, hone]
            rfl
          · rw [hy r (by omega) hrk, hbelow r hlt hrk]
            rfl
  obtain ⟨y, hym, hy⟩ := hrows m (le_refl m)
  refine ⟨y, hym, eq_of_elements fun r hr => ?_⟩
  rw [getMsbD_mulVec, hy r (by omega) hr, Bool.and_false, BitVec.getMsbD_zero]

/-- A pass that faults stops at a first column without a pivot (R116). -/
theorem exists_of_forwardColumns_none {k n m : Nat} {M : Mat k n} (h : (List.range m).foldlM forwardColumn M = none) :
    ∃ i < m, ∃ N, (List.range i).foldlM forwardColumn M = some N ∧ forwardColumn N i = none := by
  induction m with
  | zero => cases h
  | succ m ih =>
    simp only [List.range_succ, List.foldlM_append, List.foldlM_cons, List.foldlM_nil, bind_pure] at h
    cases hN : (List.range m).foldlM forwardColumn M with
    | none =>
      obtain ⟨i, hi, hstop⟩ := ih hN
      exact ⟨i, Nat.lt_succ_of_lt hi, hstop⟩
    | some N =>
      rw [hN] at h
      exact ⟨m, Nat.lt_succ_self m, N, hN, h⟩

/-- A kernel vector is one of the row space. -/
theorem SameRowSpace.mulVec_eq_zero {k n : Nat} {M N : Mat k n} (h : SameRowSpace M N) {y : BitVec n}
    (hy : mulVec N y = 0#k) : mulVec M y = 0#k := by
  refine eq_of_elements fun i hi => ?_
  obtain ⟨x, hx⟩ := (h _).mp (inRowSpace_rowOf M i)
  rw [getMsbD_mulVec, hx, dot_vecMul, hy, dot_zero_right, Bool.and_false, BitVec.getMsbD_zero]

/-- `REDUCE` faults only when the columns of the left block are dependent (R118). -/
theorem exists_leftBlock_kernel_of_fault {k n : Nat} (hkn : k ≤ n) {seed : Mat k n}
    (h : reduceMatrix seed = none) : ∃ y : BitVec k, y ≠ 0#k ∧ mulVec (leftBlock k seed) y = 0#k := by
  obtain ⟨m, hm, N, hN, hstop⟩ := exists_of_forwardColumns_none (Option.map_eq_none_iff.mp h)
  obtain ⟨hpivot, hbelow⟩ := (securePivot_eq_none_iff N m).mp ((forwardColumn_eq_none_iff N m).mp hstop)
  have hspace : SameRowSpace N seed :=
    forwardColumns_sameRowSpace (fun i hi => (List.mem_range.mp hi).trans hm) hN
  have hentry : ∀ j < k, ∀ c ≤ m, entry (leftBlock k N) j c = entry N j c := fun j hj c hc =>
    entry_leftBlock k N hj (hc.trans_lt hm)
  have hleft : ClearedBelow (leftBlock k N) m := fun c hc => by
    obtain ⟨hone, hzero⟩ := clearedBelow_of_forwardColumns hm.le hN c hc
    exact ⟨by rw [hentry c (hc.trans hm) c hc.le, hone],
      fun j hcj hj => by rw [hentry j hj c hc.le, hzero j hcj hj]⟩
  obtain ⟨y, hym, hy⟩ := exists_kernel_of_missing_pivot hm hleft fun j hmj hj => by
    rw [hentry j hj m (le_refl m)]
    obtain rfl | hlt := hmj.eq_or_lt
    · exact hpivot
    · exact hbelow j hlt hj
  refine ⟨y, ?_, (hspace.leftBlock hkn).symm.mulVec_eq_zero hy⟩
  rintro rfl
  simp at hym

/-- With a left inverse of its left block the seed reduces. -/
theorem exists_reduceMatrix_of_left_inverse {k n : Nat} (hkn : k ≤ n) {seed : Mat k n} {B : Mat k k}
    (hB : matMul B (leftBlock k seed) = identity k) : ∃ G, reduceMatrix seed = some G := by
  refine Option.ne_none_iff_exists'.mp fun hnone => ?_
  obtain ⟨y, hne, hy⟩ := exists_leftBlock_kernel_of_fault hkn hnone
  apply hne
  calc y = mulVec (matMul B (leftBlock k seed)) y := by rw [hB, mulVec_identity]
    _ = 0#k := by rw [mulVec_matMul, hy, mulVec_zero]

/-- `REDUCE` returns the systematic matrix with the input's row space, and faults when there is none (R118, R119). -/
theorem reduceMatrix_eq_some_iff {k n : Nat} (hkn : k ≤ n) (seed G : Mat k n) :
    reduceMatrix seed = some G ↔ IsSystematic G ∧ SameRowSpace G seed := by
  refine ⟨fun h => ⟨reduceMatrix_isSystematic h, reduceMatrix_sameRowSpace h⟩, fun ⟨hG, hspace⟩ => ?_⟩
  obtain ⟨B, hB, -⟩ := exists_left_inverse_of_systematic hkn hG hspace
  obtain ⟨G', h⟩ := exists_reduceMatrix_of_left_inverse hkn hB
  rw [h, (reduceMatrix_isSystematic h).eq_of_sameRowSpace hkn hG ((reduceMatrix_sameRowSpace h).trans hspace.symm)]

/-- Settles O51: the systematic matrix of a row space is unique, and it is a left inverse times the seed. -/
theorem reduceReturnsTheSystematicForm : Obligations.ReduceReturnsTheSystematicForm := by
  intro k n seed G hkn h
  obtain ⟨hG, hspace⟩ := (reduceMatrix_eq_some_iff hkn seed G).mp h
  obtain ⟨B, hB, hGB⟩ := exists_left_inverse_of_systematic hkn hG hspace
  exact ⟨hG, hspace, fun M hM hMspace => hM.eq_of_sameRowSpace hkn hG (SameRowSpace.trans hMspace hspace.symm),
    B, hB, matMul_eq_identity_comm hB, hGB⟩

theorem exists_reduceMatrix_iff_invertible {k n : Nat} (hkn : k ≤ n) (seed : Mat k n) :
    (∃ G, reduceMatrix seed = some G) ↔ Invertible (leftBlock k seed) := by
  constructor
  · rintro ⟨G, h⟩
    obtain ⟨hG, hspace⟩ := (reduceMatrix_eq_some_iff hkn seed G).mp h
    obtain ⟨B, hB, -⟩ := exists_left_inverse_of_systematic hkn hG hspace
    exact invertible_of_left_inverse hB
  · rintro ⟨B, hB, -⟩
    exact exists_reduceMatrix_of_left_inverse hkn hB

theorem reduceMatrix_of_dependent_rows {k n : Nat} (hkn : k ≤ n) {seed : Mat k n} {x : BitVec k} (hx : x ≠ 0#k)
    (hzero : vecMul x seed = 0#n) : reduceMatrix seed = none := by
  refine Option.eq_none_iff_forall_ne_some.mpr fun G h => hx ?_
  obtain ⟨B, -, hB⟩ := (exists_reduceMatrix_iff_invertible hkn seed).mp ⟨G, h⟩
  have hleft : vecMul x (leftBlock k seed) = 0#k := by
    rw [← firstBits_vecMul hkn, hzero]
    exact eq_of_elements fun j hj => by simp
  calc x = vecMul x (matMul (leftBlock k seed) B) := by rw [hB, vecMul_identity]
    _ = 0#k := by rw [vecMul_matMul, hleft, vecMul_zero]

/-- Settles O52: a fault comes with a dependency among the columns of the left block, which an inverse excludes; the
rule's two inputs are evaluated. -/
theorem reduceSucceedsExactlyWhenLeftBlockIsInvertible :
    Obligations.ReduceSucceedsExactlyWhenLeftBlockIsInvertible :=
  ⟨fun _ _ seed hkn => ⟨exists_reduceMatrix_iff_invertible hkn seed,
    fun ⟨_, hx, hzero⟩ => reduceMatrix_of_dependent_rows hkn hx hzero⟩, by decide +kernel, by decide +kernel⟩

theorem reduceMatrix_of_isSystematic {k n : Nat} (hkn : k ≤ n) {seed : Mat k n} (h : IsSystematic seed) :
    reduceMatrix seed = some seed :=
  (reduceMatrix_eq_some_iff hkn seed seed).mpr ⟨h, .refl seed⟩

/-- The result depends on the row space alone. -/
theorem SameRowSpace.reduceMatrix_eq {k n : Nat} (hkn : k ≤ n) {M N : Mat k n} (h : SameRowSpace M N) :
    reduceMatrix M = reduceMatrix N := by
  refine Option.ext fun G => ?_
  rw [reduceMatrix_eq_some_iff hkn, reduceMatrix_eq_some_iff hkn]
  exact and_congr_right fun _ => ⟨fun hG => hG.trans h, fun hG => hG.trans h.symm⟩

theorem permuteRows_sameRowSpace {k n : Nat} (M : Mat k n) (σ : Equiv.Perm (Fin k)) :
    SameRowSpace (Vector.ofFn fun i => M[σ i]) M := by
  have hrow : ∀ (i : Nat) (hi : i < k), rowOf (Vector.ofFn fun i => M[σ i]) i = rowOf M (σ ⟨i, hi⟩).val := by
    intro i hi
    rw [rowOf_of_lt _ hi, rowOf_of_lt M (σ ⟨i, hi⟩).isLt]
    simp
  refine sameRowSpace_of_rows (fun i hi => ?_) fun i hi => ?_
  · rw [hrow i hi]
    exact inRowSpace_rowOf M _
  · have hi' := hrow (σ.symm ⟨i, hi⟩).val (σ.symm ⟨i, hi⟩).isLt
    rw [Fin.eta, Equiv.apply_symm_apply] at hi'
    rw [← hi']
    exact inRowSpace_rowOf _ _

/-- Settles O53: `REDUCE` depends on the row space alone. -/
theorem reduceIgnoresRowOrder : Obligations.ReduceIgnoresRowOrder := fun _ _ seed hkn =>
  ⟨reduceMatrix_of_isSystematic hkn, fun _ h => reduceMatrix_of_isSystematic hkn (reduceMatrix_isSystematic h),
    fun σ => (permuteRows_sameRowSpace seed σ).reduceMatrix_eq hkn⟩

end Sys2Proof.Machine

/-! The Derivator's matrix is dual to a systematic one (spec/40_construction.md R121, R122). -/

namespace Sys2Proof.Machine

section
variable {k r : Nat} (G : Mat k (k + r)) {j : Nat} (hj : j < r)
include hj

theorem col_derive_right : col (deriveMatrix k r G) (k + j) = unitVec r j :=
  eq_of_elements fun i hi => by
    rw [getMsbD_col, entry_derive_right k r G hi hj, getMsbD_unitVec, decide_eq_true hi, Bool.true_and]

/-- The product with row `j` of `H` compares element `k + j` with what the first `k` elements give it (R122). -/
theorem dot_derive_row (w : BitVec (k + r)) :
    dot (rowOf (deriveMatrix k r G) j) w = (dot (firstBits k w) (col G (k + j)) ^^ w.getMsbD (k + j)) := by
  have hleft : ∀ i < k, (entry (deriveMatrix k r G) j i && w.getMsbD i) =
      ((firstBits k w).getMsbD i && (col G (k + j)).getMsbD i) := by
    intro i hi
    rw [entry_derive_left k r G hj hi, getMsbD_firstBits, getMsbD_col, decide_eq_true hi,
      Bool.true_and, Bool.and_comm]
  have hright : ∀ c < r, c ≠ j → (entry (deriveMatrix k r G) j (k + c) && w.getMsbD (k + c)) = false := by
    intro c hc hne
    rw [entry_derive_right k r G hj hc, beq_false_of_ne hne, Bool.false_and]
  have hsplit := xorBelow_add (fun c => entry (deriveMatrix k r G) j c && w.getMsbD c) k r
  rw [xorBelow_congr hleft, xorBelow_single _ j r hright, entry_derive_right k r G hj hj, beq_self_eq_true,
    decide_eq_true hj, Bool.true_and, Bool.true_and, ← dot_eq] at hsplit
  rw [dot_eq]
  exact hsplit

end

/-- The sequences with zero syndrome are the row space of `G` (R122). -/
theorem forall_dot_derive_eq_false_iff {k r : Nat} {G : Mat k (k + r)} (hG : IsSystematic G) (w : BitVec (k + r)) :
    (∀ j < r, dot (rowOf (deriveMatrix k r G) j) w = false) ↔ InRowSpace G w := by
  have hfirst : ∀ i < k, w.getMsbD i = (vecMul (firstBits k w) G).getMsbD i := by
    intro i hi
    have h := congrArg (BitVec.getMsbD · i) (hG.firstBits_vecMul (Nat.le_add_right k r) (firstBits k w))
    simpa [hi, Nat.lt_add_right r hi] using h.symm
  have hlast : ∀ j < r, (dot (rowOf (deriveMatrix k r G) j) w = false ↔
      w.getMsbD (k + j) = (vecMul (firstBits k w) G).getMsbD (k + j)) := by
    intro j hj
    rw [dot_derive_row G hj, getMsbD_vecMul, decide_eq_true (Nat.add_lt_add_left hj k), Bool.true_and,
      bne_eq_false_iff_eq, eq_comm]
  constructor
  · intro h
    refine ⟨firstBits k w, eq_of_elements fun c hc => ?_⟩
    obtain hck | ⟨j, rfl⟩ := (Nat.lt_or_ge c k).imp_right Nat.exists_eq_add_of_le
    · exact hfirst c hck
    · have hj : j < r := Nat.lt_of_add_lt_add_left hc
      exact (hlast j hj).mp (h j hj)
  · intro h j hj
    rw [hlast j hj, ← hG.eq_vecMul_firstBits (Nat.le_add_right k r) h]

/-- `G · Hᵗ = 0` (R122). -/
theorem dot_rowOf_deriveMatrix {k r : Nat} {G : Mat k (k + r)} (hG : IsSystematic G) (i : Nat) {j : Nat} (hj : j < r) :
    dot (rowOf G i) (rowOf (deriveMatrix k r G) j) = false := by
  rw [dot_comm]
  exact (forall_dot_derive_eq_false_iff hG _).mpr (inRowSpace_rowOf G i) j hj

/-- Settles O54: each row of `H` checks one of the last elements, and those of `H`'s last columns are the identity. -/
theorem deriveIsOrthogonalToG : Obligations.DeriveIsOrthogonalToG := by
  intro k r G hG
  refine ⟨fun i _ j hj => dot_rowOf_deriveMatrix hG i hj, fun y hy => eq_of_elements fun j hj => ?_,
    forall_dot_derive_eq_false_iff hG, fun x y hxy => ?_⟩
  · have hlast := congrArg (BitVec.getMsbD · (k + j)) hy
    simpa [col_derive_right G hj, hj] using hlast
  · rw [← hG.firstBits_vecMul (Nat.le_add_right k r) x, hxy, hG.firstBits_vecMul (Nat.le_add_right k r)]

/-- Settles O42: the unit runs on the block's own `G`, and its matrix has the derivator's entries. -/
theorem deriveUnitWritesH : Obligations.DeriveUnitWritesH := by
  intro s b hb
  exact ⟨_, deriveMatrix 6 4 b.g, runUnit_of_block hb deriveUnit .build, afterUnit_port .., afterUnit_rsp ..,
    afterUnit_ok_cstep .., afterUnit_ok_block ..,
    fun j hj i hi => entry_derive_left 6 4 b.g hj hi, fun j hj c hc => entry_derive_right 6 4 b.g hj hc⟩

end Sys2Proof.Machine

/-! When the Table Builder succeeds (spec/40_construction.md R123, R124). -/

namespace Sys2Proof.Machine

/-- The columns locate every single error: they are nonzero and pairwise distinct (R124). -/
def DistinctNonzeroColumns {r n : Nat} (H : Mat r n) : Prop :=
  (∀ c : Fin n, col H c ≠ 0#r) ∧ ∀ c d : Fin n, col H c = col H d → c = d

theorem not_distinctNonzeroColumns_iff {r n : Nat} (H : Mat r n) :
    ¬ DistinctNonzeroColumns H ↔
      (∃ c : Fin n, col H c = 0#r) ∨ ∃ c d : Fin n, c ≠ d ∧ col H c = col H d := by
  simp only [DistinctNonzeroColumns, not_and_or, not_forall, not_not, exists_prop, and_comm]

/-- A nonzero column whose entry is free is entered. -/
theorem exists_enterColumn {r n p : Nat} {H : Mat r n} {T : SynTable r p} {c : Fin n} (hc : col H c ≠ 0#r)
    (hfree : (lookup T (col H c)).hit = false) : ∃ U, enterColumn H T c = some U := by
  have hpack : pack (col H c) ≠ 0 := fun h => hc (BitVec.eq_of_toNat_eq h)
  exact ⟨_, by rw [enterColumn, if_neg hpack, if_neg (ne_true_of_eq_false hfree)]⟩

/-- Nonzero distinct columns whose entries are free are all entered. -/
theorem exists_enterColumns {r n p : Nat} {H : Mat r n} (hH : DistinctNonzeroColumns H) {cs : List (Fin n)}
    (hcs : cs.Nodup) {T : SynTable r p} (hfree : ∀ c ∈ cs, (lookup T (col H c)).hit = false) :
    ∃ U, cs.foldlM (enterColumn H) T = some U := by
  induction cs generalizing T with
  | nil => exact ⟨T, rfl⟩
  | cons d cs ih =>
    obtain ⟨hd, hfree⟩ := List.forall_mem_cons.mp hfree
    obtain ⟨hdcs, hcs⟩ := List.nodup_cons.mp hcs
    obtain ⟨V, hV⟩ := exists_enterColumn (hH.1 d) hd
    obtain ⟨-, -, hlook⟩ := enterColumn_some hV
    obtain ⟨U, hU⟩ := ih (T := V) hcs fun c hc => by
      have hne : col H d ≠ col H c := fun heq => hdcs (hH.2 d c heq ▸ hc)
      rw [hlook, if_neg hne, hfree c hc]
    exact ⟨U, by rw [List.foldlM_cons, hV]; exact hU⟩

/-- Columns that are entered in turn are pairwise distinct: each finds its entry free. -/
theorem pairwise_ne_of_enterColumns {r n p : Nat} {H : Mat r n} {cs : List (Fin n)} {T U : SynTable r p}
    (h : cs.foldlM (enterColumn H) T = some U) : cs.Pairwise fun c d : Fin n => col H c ≠ col H d := by
  induction cs generalizing T with
  | nil => exact .nil
  | cons d cs ih =>
    rw [List.foldlM_cons] at h
    obtain ⟨V, hV, hU⟩ := Option.bind_eq_some_iff.mp h
    obtain ⟨-, -, hlook⟩ := enterColumn_some hV
    refine .cons (fun c hc heq => ?_) (ih hU)
    have hfree := ((lookup_of_enterColumns hU).1 c hc).2.1
    simp [hlook, heq] at hfree

/-- `BUILD` succeeds exactly on nonzero distinct columns (R124). -/
theorem exists_buildTable_iff {r n : Nat} (p : Nat) (H : Mat r n) :
    (∃ T, buildTable p H = some T) ↔ DistinctNonzeroColumns H := by
  constructor
  · rintro ⟨T, hT⟩
    refine ⟨col_ne_zero_of_buildTable hT, fun c d heq => ?_⟩
    have hsymm : Std.Symm fun c d : Fin n => col H c ≠ col H d := ⟨fun _ _ => Ne.symm⟩
    by_contra hne
    exact (pairwise_ne_of_enterColumns hT).forall (List.mem_finRange c) (List.mem_finRange d) hne heq
  · intro hH
    exact exists_enterColumns hH (List.nodup_finRange n) fun c _ => by rw [lookup_emptyTable]; rfl

theorem buildTable_eq_none_iff {r n : Nat} (p : Nat) (H : Mat r n) :
    buildTable p H = none ↔ (∃ c : Fin n, col H c = 0#r) ∨ ∃ c d : Fin n, c ≠ d ∧ col H c = col H d := by
  rw [← not_distinctNonzeroColumns_iff, ← exists_buildTable_iff p, ← Option.ne_none_iff_exists', not_not]

/-- Settles O55: `buildTable_eq_none_iff`, and the entries that entering the columns leaves. -/
theorem buildMapsColumnsOrFaults : Obligations.BuildMapsColumnsOrFaults := by
  refine fun r n p H => ⟨buildTable_eq_none_iff p H, fun T hT => ⟨lookup_buildTable_col hT, fun hn c => ?_,
    fun S => lookup_buildTable_of_ne hT⟩⟩
  rw [lookup_buildTable_col hT, BitVec.toNat_ofNat, Nat.mod_eq_of_lt (c.isLt.trans_le hn)]

/-- Settles O43: the unit runs `BUILD` on the block's own `H`. -/
theorem buildUnitWritesSyn : Obligations.BuildUnitWritesSyn := by
  intro s b hb
  refine ⟨_, runUnit_of_block hb buildUnit .done, afterUnit_port .., afterUnit_rsp .., ?_,
    fun hgood => ?_, fun hbad => ?_⟩
  · cases h : buildTable 4 b.h with
    | some T => rw [buildUnit_of_some h, afterUnit_ok_cstep]
    | none => rw [buildUnit_of_none h, afterUnit_error_cstep]
  · obtain ⟨T, hT⟩ := (exists_buildTable_iff 4 b.h).mpr hgood
    exact ⟨T, by rw [buildUnit_of_some hT, afterUnit_ok_block], buildTable_isSyndromeTableOf hT⟩
  · have hT := (buildTable_eq_none_iff 4 b.h).mpr hbad
    exact ⟨_, by rw [buildUnit_of_none hT, afterUnit_error_block], fatal_ready .., fatal_cfault ..⟩

end Sys2Proof.Machine

/-! What the tables of a built block hold, and the rows of `P` that give one (spec/40_construction.md R125, R127). -/

namespace Sys2Proof.Machine

/-! Columns of a check matrix -/

theorem IsCheckMatrixOf.eq_deriveMatrix {G : Mat 6 10} {H : Mat 4 10} (h : IsCheckMatrixOf G H) :
    H = deriveMatrix 6 4 G := by
  refine eq_of_entries fun j hj c hc => ?_
  obtain ⟨hleft, hright⟩ := h j hj
  obtain ⟨dleft, dright⟩ := deriveMatrix_isCheckMatrixOf G j hj
  obtain hc6 | ⟨t, rfl⟩ := (Nat.lt_or_ge c 6).imp_right Nat.exists_eq_add_of_le
  · rw [hleft c hc6, dleft c hc6]
  · have ht : t < 4 := by omega
    rw [hright t ht, dright t ht]

theorem IsCheckMatrixOf.col_left {G : Mat 6 10} {H : Mat 4 10} (h : IsCheckMatrixOf G H) {c : Nat} (hc : c < 6) :
    col H c = parityRow G c :=
  eq_of_elements fun j hj => by
    rw [getMsbD_col, (h j hj).1 c hc, parityRow, getMsbD_ofElems, decide_eq_true hj, Bool.true_and]

theorem IsCheckMatrixOf.col_right {G : Mat 6 10} {H : Mat 4 10} (h : IsCheckMatrixOf G H) {t : Nat} (ht : t < 4) :
    col H (6 + t) = unitVec 4 t := by
  rw [h.eq_deriveMatrix, col_derive_right G ht]

/-- A column is a row of `P` or a unit vector. -/
theorem IsCheckMatrixOf.col_cases {G : Mat 6 10} {H : Mat 4 10} (h : IsCheckMatrixOf G H) (c : Fin 10) :
    (c.val < 6 ∧ col H c = parityRow G c) ∨ ∃ t < 4, c.val = 6 + t ∧ col H c = unitVec 4 t := by
  obtain hc | ⟨t, ht⟩ := (Nat.lt_or_ge c.val 6).imp_right Nat.exists_eq_add_of_le
  · exact .inl ⟨hc, h.col_left hc⟩
  · have ht4 : t < 4 := by omega
    exact .inr ⟨t, ht4, ht, by rw [ht, h.col_right ht4]⟩

theorem unitVec_inj {n i j : Nat} (hi : i < n) (h : unitVec n i = unitVec n j) : i = j := by
  have hbit : (unitVec n i).getMsbD i = (unitVec n j).getMsbD i := by rw [h]
  have hji : j = i := by simpa [hi] using hbit
  exact hji.symm

theorem unitVec_ne_zero {n i : Nat} (hi : i < n) : unitVec n i ≠ 0#n := by
  intro h
  have hbit : (unitVec n i).getMsbD i = true := by simp [hi]
  rw [h, BitVec.getMsbD_zero] at hbit
  cases hbit

/-- At least two 1s are more than none and more than one. -/
theorem hasTwoOnes_iff {n : Nat} (s : BitVec n) : HasTwoOnes s ↔ s ≠ 0#n ∧ ∀ i < n, s ≠ unitVec n i := by
  constructor
  · rintro ⟨i, hi, j, hj, hij, hsi, hsj⟩
    refine ⟨?_, fun p _ => ?_⟩
    · rintro rfl
      simp at hsi
    · rintro rfl
      have hpi : p = i := by simpa [hi] using hsi
      have hpj : p = j := by simpa [hj] using hsj
      exact hij (hpi.symm.trans hpj)
  · rintro ⟨hzero, hunit⟩
    obtain ⟨i, hi, hsi⟩ : ∃ i < n, s.getMsbD i = true := by
      by_contra! h
      exact hzero (eq_of_elements fun i hi => by simpa using h i hi)
    obtain ⟨j, hj, hsj⟩ : ∃ j < n, s.getMsbD j ≠ (unitVec n i).getMsbD j := by
      by_contra! h
      exact hunit i hi (eq_of_elements h)
    have hij : i ≠ j := by
      rintro rfl
      simp [hi, hsi] at hsj
    rw [getMsbD_unitVec, beq_false_of_ne hij, Bool.and_false] at hsj
    exact ⟨i, hi, j, hj, hij, hsi, Bool.eq_true_of_not_eq_false hsj⟩

/-- The columns are nonzero and distinct exactly when the rows of `P` are distinct with two 1s each (R125). -/
theorem IsCheckMatrixOf.distinctNonzeroColumns_iff {G : Mat 6 10} {H : Mat 4 10} (h : IsCheckMatrixOf G H) :
    DistinctNonzeroColumns H ↔
      (∀ i < 6, HasTwoOnes (parityRow G i)) ∧ ∀ i < 6, ∀ j < 6, parityRow G i = parityRow G j → i = j := by
  constructor
  · rintro ⟨hzero, hinj⟩
    have hcol : ∀ {c d : Nat} (_ : c < 10) (_ : d < 10), col H c = col H d → c = d := fun hc hd heq =>
      Fin.mk.inj (hinj ⟨_, hc⟩ ⟨_, hd⟩ heq)
    refine ⟨fun i hi => (hasTwoOnes_iff _).mpr ⟨?_, fun t ht heq => ?_⟩, fun i hi j hj heq => ?_⟩
    · rw [← h.col_left hi]
      exact hzero ⟨i, by omega⟩
    · rw [← h.col_left hi, ← h.col_right ht] at heq
      have hidx : i = 6 + t := hcol (by omega) (by omega) heq
      omega
    · rw [← h.col_left hi, ← h.col_left hj] at heq
      exact hcol (by omega) (by omega) heq
  · rintro ⟨htwo, hinj⟩
    have hnot := fun i hi => (hasTwoOnes_iff _).mp (htwo i hi)
    refine ⟨fun c => ?_, fun c d heq => Fin.ext ?_⟩
    · obtain ⟨hc, hcol⟩ | ⟨t, ht, -, hcol⟩ := h.col_cases c
      · rw [hcol]
        exact (hnot c hc).1
      · rw [hcol]
        exact unitVec_ne_zero ht
    · obtain ⟨hc, hcol⟩ | ⟨t, ht, hct, hcol⟩ := h.col_cases c <;>
        obtain ⟨hd, hcol'⟩ | ⟨u, hu, hdu, hcol'⟩ := h.col_cases d <;> rw [hcol, hcol'] at heq
      · exact hinj c hc d hd heq
      · exact absurd heq ((hnot c hc).2 u hu)
      · exact absurd heq.symm ((hnot d hd).2 t ht)
      · rw [hct, hdu, unitVec_inj ht heq]

theorem exists_buildTable_derive_iff (G : Mat 6 10) :
    (∃ T, buildTable 4 (deriveMatrix 6 4 G) = some T) ↔
      (∀ i < 6, HasTwoOnes (parityRow G i)) ∧ ∀ i < 6, ∀ j < 6, parityRow G i = parityRow G j → i = j :=
  (exists_buildTable_iff 4 _).trans (deriveMatrix_isCheckMatrixOf G).distinctNonzeroColumns_iff

/-! Entries of a syndrome table -/

/-- An entry is the hit of the column at its address, or a miss at an address of no column. -/
theorem IsSyndromeTableOf.lookup_cases {H : Mat 4 10} {T : SynTable 4 4} (h : IsSyndromeTableOf H T) (S : Syndrome) :
    (∃ c : Fin 10, col H c = S ∧ lookup T S = { hit := true, pos := BitVec.ofNat 4 c.val }) ∨
    ((∀ c : Fin 10, col H c ≠ S) ∧ lookup T S = SynEntry.miss 4) := by
  obtain ⟨hhit, hmiss, -⟩ := h
  by_cases hS : ∃ c : Fin 10, col H c = S
  · obtain ⟨c, rfl⟩ := hS
    exact .inl ⟨c, rfl, hhit c⟩
  · rw [not_exists] at hS
    exact .inr ⟨hS, hmiss S hS⟩

theorem IsSyndromeTableOf.hit_iff {H : Mat 4 10} {T : SynTable 4 4} (h : IsSyndromeTableOf H T) (S : Syndrome) :
    (lookup T S).hit = true ↔ ∃ c : Fin 10, col H c = S := by
  obtain ⟨c, hc, hlook⟩ | ⟨hne, hlook⟩ := h.lookup_cases S
  · rw [hlook]
    exact ⟨fun _ => ⟨c, hc⟩, fun _ => rfl⟩
  · rw [hlook]
    exact ⟨fun hmiss => absurd hmiss Bool.false_ne_true, fun ⟨c, hc⟩ => absurd hc (hne c)⟩

theorem toNat_ofNat_index (c : Fin 10) : (BitVec.ofNat 4 c.val).toNat = c.val := by
  rw [BitVec.toNat_ofNat, Nat.mod_eq_of_lt (by omega)]

/-- A table that tells the columns apart has nonzero distinct ones to tell apart. -/
theorem IsSyndromeTableOf.distinctNonzeroColumns {H : Mat 4 10} {T : SynTable 4 4} (h : IsSyndromeTableOf H T) :
    DistinctNonzeroColumns H := by
  obtain ⟨hhit, -, hzero⟩ := h
  refine ⟨fun c hc => ?_, fun c d heq => ?_⟩
  · have hlook := hhit c
    rw [hc, hzero] at hlook
    cases hlook
  · have hlook := hhit c
    rw [heq, hhit d] at hlook
    have hpos := congrArg (fun e => e.pos.toNat) hlook
    simp only [toNat_ofNat_index] at hpos
    exact Fin.ext hpos.symm

/-- `SYN[a]` is the entry of the syndrome that packs to `a`. -/
theorem lookup_synAddress (T : SynTable 4 4) (a : Fin 16) : lookup T (synAddress a) = T[a.val] := rfl

/-- The hits are at the ten columns. -/
theorem IsSyndromeTableOf.length_hits {H : Mat 4 10} {T : SynTable 4 4} (h : IsSyndromeTableOf H T) :
    ((List.finRange 16).filter fun a => (T[a.val]).hit).length = 10 := by
  have hinj : Function.Injective fun c : Fin 10 => (col H c).toFin := fun c d heq =>
    h.distinctNonzeroColumns.2 c d (BitVec.toFin_inj.mp heq)
  have hperm : ((List.finRange 16).filter fun a => (T[a.val]).hit).Perm
      ((List.finRange 10).map fun c : Fin 10 => (col H c).toFin) := by
    refine (List.perm_ext_iff_of_nodup ((List.nodup_finRange 16).filter _)
      ((List.nodup_finRange 10).map hinj)).mpr fun a => ?_
    have haddr : ∀ c : Fin 10, col H c = synAddress a ↔ (col H c).toFin = a := fun c => BitVec.toFin_inj.symm
    simp only [List.mem_filter, List.mem_finRange, true_and, List.mem_map, ← lookup_synAddress, h.hit_iff, haddr]
  rw [hperm.length_eq, List.length_map, List.length_finRange]

/-- Settles O56: the entries of a syndrome table, at the columns that a check matrix has. -/
theorem syndromeTableContents : Obligations.SyndromeTableContents := by
  refine ⟨fun b hb => ?_, exists_buildTable_derive_iff⟩
  obtain ⟨-, hcheck, htable⟩ := hb
  have hunit : ∀ (t : Nat) (ht : t < 4), lookup b.syn (unitVec 4 t) =
      { hit := true, pos := BitVec.ofNat 4 (6 + t) } := fun t ht => by
    rw [← hcheck.col_right ht]
    exact htable.1 ⟨6 + t, by omega⟩
  refine ⟨htable.length_hits, htable.2.2, htable.1, fun a ha => ?_, fun a => ?_, hunit 0 (by decide),
    hunit 1 (by decide), hunit 2 (by decide), hunit 3 (by decide), fun c => ?_⟩
  · obtain ⟨c, hc, hlook⟩ | ⟨-, hlook⟩ := htable.lookup_cases (synAddress a)
    · rw [← lookup_synAddress, hlook, toNat_ofNat_index, hc]
      rfl
    · rw [← lookup_synAddress, hlook] at ha
      cases ha
  · obtain ⟨c, -, hlook⟩ | ⟨-, hlook⟩ := htable.lookup_cases (synAddress a)
    · rw [← lookup_synAddress, hlook, toNat_ofNat_index]
      exact Nat.le_of_lt_succ c.isLt
    · rw [← lookup_synAddress, hlook]
      exact Nat.zero_le 9
  · rw [← hcheck.col_left c.isLt]
    exact htable.1 ⟨c, by omega⟩

end Sys2Proof.Machine

/-! The construction for every seed (spec/40_construction.md R126 to R128). -/

namespace Sys2Proof.Machine

theorem construct_of_rankFault {seed : Mat 6 10} (h : reduceMatrix seed = none) :
    construct seed = fatal seed .cRank := by
  obtain ⟨-, hc⟩ | ⟨G, hG, -⟩ | ⟨G, -, hG, -⟩ := construct_cases seed
  · exact hc
  all_goals cases h.symm.trans hG

theorem construct_of_columnFault {seed G : Mat 6 10} (hG : reduceMatrix seed = some G)
    (hT : buildTable 4 (deriveMatrix 6 4 G) = none) : construct seed = fatal seed .cColumns := by
  obtain ⟨hG', -⟩ | ⟨G', -, -, hc⟩ | ⟨G', T, hG', hT', -⟩ := construct_cases seed
  · cases hG.symm.trans hG'
  · exact hc
  · cases hG.symm.trans hG'
    cases hT.symm.trans hT'

theorem construct_of_built {seed G : Mat 6 10} {T : SynTable 4 4} (hG : reduceMatrix seed = some G)
    (hT : buildTable 4 (deriveMatrix 6 4 G) = some T) :
    construct seed = { g := G, h := deriveMatrix 6 4 G, syn := T, ready := true, cfault := .cNone } := by
  obtain ⟨hG', -⟩ | ⟨G', hG', hT', -⟩ | ⟨G', T', hG', hT', hc⟩ := construct_cases seed
  · cases hG.symm.trans hG'
  · cases hG.symm.trans hG'
    cases hT.symm.trans hT'
  · cases hG.symm.trans hG'
    cases hT.symm.trans hT'
    exact hc

/-- Settles O40: each ending of a construction follows from what its units return. -/
theorem constructBuildsInOrder : Obligations.ConstructBuildsInOrder := by
  refine ⟨fun _ => rfl, fun seed => ⟨fun h => ?_, fun G hG =>
    ⟨fun hT => ?_, fun _ => construct_of_built hG⟩⟩⟩
  · rw [construct_of_rankFault h]
    exact ⟨fatal_ready .., fatal_cfault ..⟩
  · rw [construct_of_columnFault hG hT]
    exact ⟨fatal_ready .., fatal_cfault ..⟩

theorem not_constructOK_of_fatal {seed : Mat 6 10} {f : CFault} (h : construct seed = fatal seed f) :
    ¬ ConstructOK seed := by
  rw [ConstructOK, h, fatal_ready]
  exact Bool.false_ne_true

/-- For a seed that reduces, `SeedOK` asks that `BUILD` succeed on the derived matrix. -/
theorem seedOK_iff_of_reduced {seed G : Mat 6 10} (hG : reduceMatrix seed = some G) :
    SeedOK seed ↔ ∃ T, buildTable 4 (deriveMatrix 6 4 G) = some T := by
  have hinv := (exists_reduceMatrix_iff_invertible (by decide) seed).mp ⟨G, hG⟩
  simp only [SeedOK, hinv, hG, Option.some.injEq, true_and, forall_eq', exists_buildTable_derive_iff]
  exact and_comm

/-- A systematic seed with the rows of `P` that R127 names. -/
def goodSeed : Mat 6 10 :=
  #v[0b1000001001#10, 0b0100000011#10, 0b0010001110#10, 0b0001001100#10, 0b0000100111#10, 0b0000010101#10]

theorem constructOK_goodSeed : ConstructOK goodSeed := by
  unfold ConstructOK
  decide +kernel

/-- Settles O57: in each of the three endings of a construction, both predicates and the fault are decided by what
`REDUCE` and `BUILD` return. -/
theorem seedOkIsConstructOk : Obligations.SeedOkIsConstructOk := by
  have hall : ∀ seed : Mat 6 10, (SeedOK seed ↔ ConstructOK seed) ∧
      (¬ Invertible (leftBlock 6 seed) → (construct seed).cfault = .cRank) ∧
      (Invertible (leftBlock 6 seed) → ¬ SeedOK seed → (construct seed).cfault = .cColumns) := by
    intro seed
    have hinv := exists_reduceMatrix_iff_invertible (by decide) seed
    obtain ⟨hG, hc⟩ | ⟨G, hG, hT, hc⟩ | ⟨G, T, hG, hT, hc⟩ := construct_cases seed
    · have hsing : ¬ Invertible (leftBlock 6 seed) := by simp [← hinv, hG]
      exact ⟨⟨fun h => absurd h.1 hsing, fun h => absurd h (not_constructOK_of_fatal hc)⟩,
        fun _ => by rw [hc, fatal_cfault], fun h => absurd h hsing⟩
    · have hbad : ¬ SeedOK seed := by simp [seedOK_iff_of_reduced hG, hT]
      exact ⟨⟨fun h => absurd h hbad, fun h => absurd h (not_constructOK_of_fatal hc)⟩,
        fun h => absurd (hinv.mp ⟨G, hG⟩) h, fun _ _ => by rw [hc, fatal_cfault]⟩
    · have hgood : SeedOK seed := (seedOK_iff_of_reduced hG).mpr ⟨T, hT⟩
      have hok : ConstructOK seed := by rw [ConstructOK, hc]
      exact ⟨⟨fun _ => hok, fun _ => hgood⟩, fun h => absurd hgood.1 h, fun _ h => absurd hgood h⟩
  exact ⟨hall, goodSeed, (hall goodSeed).1.mpr constructOK_goodSeed⟩

/-! Light words -/

/-- A nonzero sequence that differs from 0 in at most two positions has one 1 or two. -/
theorem eq_unitVec_or_xor_of_light {n : Nat} {w : BitVec n} (hne : w ≠ 0#n) (hlight : distance w 0#n ≤ 2) :
    (∃ i < n, w = unitVec n i) ∨ ∃ i < n, ∃ j < n, i ≠ j ∧ w = unitVec n i ^^^ unitVec n j := by
  have hmem : ∀ j, j ∈ (List.range n).filter (fun j => w.getMsbD j != (0#n).getMsbD j) ↔
      j < n ∧ w.getMsbD j = true := by simp
  have hnodup : ((List.range n).filter fun j => w.getMsbD j != (0#n).getMsbD j).Nodup := List.nodup_range.filter _
  rw [distance] at hlight
  generalize (List.range n).filter (fun j => w.getMsbD j != (0#n).getMsbD j) = ones at hmem hnodup hlight
  match ones with
  | [] =>
    refine absurd (eq_of_elements fun j hj => ?_) hne
    simpa [hj] using hmem j
  | [i] =>
    have hi := ((hmem i).mp (by simp)).1
    refine .inl ⟨i, hi, eq_of_elements fun j hj => ?_⟩
    have hj' := hmem j
    grind [getMsbD_unitVec]
  | [i, j] =>
    have hi := ((hmem i).mp (by simp)).1
    have hj := ((hmem j).mp (by simp)).1
    have hij : i ≠ j := by simpa using hnodup
    refine .inr ⟨i, hi, j, hj, hij, eq_of_elements fun c hc => ?_⟩
    have hc' := hmem c
    grind [getMsbD_unitVec, BitVec.getMsbD_xor]
  | _ :: _ :: _ :: _ => simp at hlight

/-- With nonzero distinct columns no sequence with one or two 1s has zero syndrome (R128). -/
theorem DistinctNonzeroColumns.mulVec_ne_zero_of_light {r n : Nat} {H : Mat r n} (hH : DistinctNonzeroColumns H)
    {w : BitVec n} (hne : w ≠ 0#n) (hlight : distance w 0#n ≤ 2) : mulVec H w ≠ 0#r := by
  obtain ⟨i, hi, rfl⟩ | ⟨i, hi, j, hj, hij, rfl⟩ := eq_unitVec_or_xor_of_light hne hlight
  · rw [mulVec_unitVec]
    exact hH.1 ⟨i, hi⟩
  · rw [mulVec_xor, mulVec_unitVec, mulVec_unitVec, Ne, BitVec.xor_eq_zero_iff]
    exact fun heq => hij (Fin.mk.inj (hH.2 ⟨i, hi⟩ ⟨j, hj⟩ heq))

/-- The sequences with zero syndrome are the row space of a built block's `G` (R122). -/
theorem Block.Built.syndrome_eq_zero_iff {b : Block} (hb : b.Built) (w : Row) :
    syndrome b.h w = 0#4 ↔ InRowSpace b.g w := by
  have hdual := forall_dot_derive_eq_false_iff (k := 6) (r := 4) hb.systematic w
  rw [← hb.check.eq_deriveMatrix] at hdual
  refine Iff.trans ?_ hdual
  constructor
  · intro h j hj
    simpa [syndrome, hj] using congrArg (BitVec.getMsbD · j) h
  · intro h
    exact eq_of_elements fun j hj => by rw [syndrome, getMsbD_mulVec, h j hj, Bool.and_false, BitVec.getMsbD_zero]

/-- Settles O58: a ready construction is built, and a built block has the guarantees. -/
theorem readyBlockGuarantees : Obligations.ReadyBlockGuarantees := by
  intro seed hready
  have hb := readyConstructionIsBuilt seed hready
  generalize construct seed = b at hb
  have hcols := hb.table.distinctNonzeroColumns
  obtain ⟨hhit, hmiss, -⟩ := hb.table
  have hlight : ∀ w : Row, w ≠ 0#10 → distance w 0#10 ≤ 2 → syndrome b.h w ≠ 0#4 := fun w =>
    hcols.mulVec_ne_zero_of_light
  refine ⟨hb.systematic, fun i _ j hj => ?_, hcols.1, hcols.2, hhit, fun S hS => by rw [hmiss S hS]; rfl, hlight,
    fun w hw hne => ?_⟩
  · rw [hb.check.eq_deriveMatrix]
    exact dot_rowOf_deriveMatrix (k := 6) (r := 4) hb.systematic i hj
  · by_contra! h
    exact hlight w hne (Nat.le_of_lt_succ h) ((hb.syndrome_eq_zero_iff w).mpr hw)

end Sys2Proof.Machine

/-! Sums, parities and distances of sequences, and a sequence with one element appended
(spec/00_scope.md R14, R16). -/

namespace Sys2Proof

section
variable {n : Nat} (s : BitVec n) (b : Bool)

theorem getMsbD_concat_of_lt {j : Nat} (hj : j < n) : (s.concat b).getMsbD j = s.getMsbD j := by
  rw [BitVec.getMsbD_concat, if_pos hj]

@[simp] theorem getMsbD_concat_last : (s.concat b).getMsbD n = b := by
  simp [BitVec.getMsbD_concat]

@[simp] theorem firstBits_concat : firstBits n (s.concat b) = s :=
  eq_of_elements fun j hj => by
    rw [getMsbD_firstBits, decide_eq_true hj, Bool.true_and, getMsbD_concat_of_lt s b hj]

@[simp] theorem xsum_concat : xsum (s.concat b) = (xsum s ^^ b) := by
  rw [xsum_eq, xorBelow, getMsbD_concat_last, xorBelow_congr fun j => getMsbD_concat_of_lt s b, ← xsum_eq]

end

/-- The XOR of the selected sequences, read at one position. -/
theorem getMsbD_foldl_xor {n : Nat} (p : Nat → Bool) (v : Nat → BitVec n) (m j : Nat) :
    ((List.range m).foldl (fun acc i => if p i then acc ^^^ v i else acc) 0#n).getMsbD j =
      xorBelow (fun i => p i && (v i).getMsbD j) m := by
  induction m with
  | zero => exact BitVec.getMsbD_zero
  | succ m ih =>
    rw [List.range_succ, List.foldl_append, List.foldl_cons, List.foldl_nil, xorBelow, ← ih]
    cases p m <;> simp

/-- `x · M` is the XOR of the rows of `M` that `x` selects (R142). -/
theorem vecMul_eq_foldl_xor_rows {k n : Nat} (x : BitVec k) (M : Mat k n) :
    vecMul x M = (List.range k).foldl (fun acc i => if x.getMsbD i then acc ^^^ rowOf M i else acc) 0#n :=
  eq_of_elements fun j hj => by
    rw [getMsbD_foldl_xor, getMsbD_vecMul, decide_eq_true hj, Bool.true_and, dot_eq]
    exact xorBelow_congr fun i _ => by rw [getMsbD_col, entry]

/-- A sum over GF(2) is the parity of how many of its terms are 1. -/
theorem toNat_xorBelow (f : Nat → Bool) (n : Nat) : (xorBelow f n).toNat = (List.range n).countP f % 2 := by
  have hxor : ∀ x y : Bool, (x ^^ y).toNat = (x.toNat + y.toNat) % 2 := by decide
  induction n with
  | zero => rfl
  | succ n ih =>
    rw [xorBelow, hxor, ih, Nat.mod_add_mod, List.range_succ, List.countP_append, List.countP_singleton]
    cases f n <;> rfl

end Sys2Proof

namespace Sys2Proof.Machine

theorem distance_zero_right {n : Nat} (s : BitVec n) : distance s 0#n = (List.range n).countP s.getMsbD := by
  simp [distance, List.countP_eq_length_filter]

/-- Two sequences differ where their XOR has a 1. -/
theorem distance_eq_distance_xor_zero {n : Nat} (s t : BitVec n) : distance s t = distance (s ^^^ t) 0#n := by
  simp [distance]

/-- The parity of the number of 1s is the sum of the elements. -/
theorem distance_zero_mod_two {n : Nat} (s : BitVec n) : distance s 0#n % 2 = (xsum s).toNat := by
  rw [distance_zero_right, xsum_eq, toNat_xorBelow]

theorem distance_concat_zero {n : Nat} (s : BitVec n) (b : Bool) :
    distance (s.concat b) 0#(n + 1) = distance s 0#n + b.toNat := by
  have hfirst : (List.range n).countP (s.concat b).getMsbD = (List.range n).countP s.getMsbD :=
    List.countP_congr fun j hj => by rw [getMsbD_concat_of_lt s b (List.mem_range.mp hj)]
  rw [distance_zero_right, distance_zero_right, List.range_succ, List.countP_append, List.countP_singleton, hfirst,
    getMsbD_concat_last]
  cases b <;> rfl

/-- Nonzero members of the row space of a built block's `G` have at least three 1s (R128). -/
theorem Block.Built.three_le_distance {b : Block} (hb : b.Built) {w : Row} (hw : InRowSpace b.g w) (hne : w ≠ 0#10) :
    3 ≤ distance w 0#10 := by
  by_contra! h
  exact hb.table.distinctNonzeroColumns.mulVec_ne_zero_of_light hne (Nat.le_of_lt_succ h)
    ((hb.syndrome_eq_zero_iff w).mpr hw)

end Sys2Proof.Machine

/-! The codeword of a data word (spec/41_encoder.md R142 to R144). -/

namespace Sys2Proof.Machine

section
variable (G : Mat 6 10) (d e : DataWord)

theorem inRowSpace_protectedBits : InRowSpace G (protectedBits G d) :=
  ⟨d, rfl⟩

@[simp] theorem firstBits_encodeWord : firstBits 10 (encodeWord G d) = protectedBits G d :=
  firstBits_concat _ _

theorem getMsbD_encodeWord_of_lt {j : Nat} (hj : j < 10) :
    (encodeWord G d).getMsbD j = (protectedBits G d).getMsbD j :=
  getMsbD_concat_of_lt _ _ hj

/-- Each protected bit is the product of the data word with its column of `G` (R142). -/
theorem getMsbD_encodeWord {j : Nat} (hj : j < 10) :
    (encodeWord G d).getMsbD j = xorBelow (fun i => d.getMsbD i && entry G i j) 6 := by
  rw [getMsbD_encodeWord_of_lt G d hj, protectedBits, getMsbD_vecMul, decide_eq_true hj, Bool.true_and, dot_eq]
  exact xorBelow_congr fun i _ => by rw [getMsbD_col]

/-- The last bit is the sum of the ten before it (R143). -/
theorem getMsbD_encodeWord_parity : (encodeWord G d).getMsbD 10 = xorBelow (encodeWord G d).getMsbD 10 := by
  rw [xorBelow_congr fun j => getMsbD_encodeWord_of_lt G d, ← xsum_eq]
  exact getMsbD_concat_last _ _

theorem xsum_encodeWord : xsum (encodeWord G d) = false := by
  rw [encodeWord, xsum_concat, Bool.xor_self]

theorem encodeWord_xor : encodeWord G (d ^^^ e) = encodeWord G d ^^^ encodeWord G e := by
  rw [encodeWord, protectedBits, vecMul_xor, xsum_xor, ← BitVec.concat_xor_concat]
  rfl

@[simp] theorem encodeWord_zero : encodeWord G 0#6 = 0#11 := by
  rw [encodeWord, protectedBits, vecMul_zero, xsum_zero]
  rfl

end

/-- The data word is the first six bits of its protected bits (R144). -/
theorem IsSystematic.firstBits_protectedBits {G : Mat 6 10} (hG : IsSystematic G) (d : DataWord) :
    firstBits 6 (protectedBits G d) = d :=
  hG.firstBits_vecMul (by decide) d

theorem IsSystematic.getMsbD_encodeWord_eq_data {G : Mat 6 10} (hG : IsSystematic G) (d : DataWord) {j : Nat}
    (hj : j < 6) : (encodeWord G d).getMsbD j = d.getMsbD j := by
  have hj10 : j < 10 := by omega
  rw [getMsbD_encodeWord_of_lt G d hj10]
  conv_rhs => rw [← hG.firstBits_protectedBits d, getMsbD_firstBits, decide_eq_true hj, Bool.true_and]

theorem IsSystematic.encodeWord_injective {G : Mat 6 10} (hG : IsSystematic G) :
    Function.Injective (encodeWord G) := by
  intro d e h
  rw [← hG.firstBits_protectedBits d, ← firstBits_encodeWord, h, firstBits_encodeWord, hG.firstBits_protectedBits]

/-- A codeword passes each row of the check matrix (R144). -/
theorem Block.Built.dot_protectedBits {b : Block} (hb : b.Built) (d : DataWord) {j : Nat} (hj : j < 4) :
    dot (rowOf b.h j) (protectedBits b.g d) = false := by
  have hzero := (hb.syndrome_eq_zero_iff _).mpr (inRowSpace_protectedBits b.g d)
  simpa [syndrome, hj] using congrArg (BitVec.getMsbD · j) hzero

/-- The codeword of a nonzero data word has at least four 1s: its protected bits have three, and the parity bit makes
an odd number even (R144). -/
theorem Block.Built.four_le_distance_zero {b : Block} (hb : b.Built) {d : DataWord} (hd : d ≠ 0#6) :
    4 ≤ distance (encodeWord b.g d) 0#11 := by
  have hne : protectedBits b.g d ≠ 0#10 := by
    intro hzero
    have hfirst := hb.systematic.firstBits_protectedBits d
    rw [hzero] at hfirst
    exact hd hfirst.symm
  have hthree := hb.three_le_distance (inRowSpace_protectedBits b.g d) hne
  have hparity := distance_zero_mod_two (protectedBits b.g d)
  rw [encodeWord, distance_concat_zero]
  omega

/-- Distinct codewords differ in at least four positions (R144): their XOR is the codeword of the XOR. -/
theorem Block.Built.four_le_distance {b : Block} (hb : b.Built) {d e : DataWord} (hde : d ≠ e) :
    4 ≤ distance (encodeWord b.g d) (encodeWord b.g e) := by
  rw [distance_eq_distance_xor_zero, ← encodeWord_xor]
  exact hb.four_le_distance_zero (mt BitVec.xor_eq_zero_iff.mp hde)

end Sys2Proof.Machine

/-! The response of `ENC` (spec/41_encoder.md R140 to R145). -/

namespace Sys2Proof.Machine

theorem exec_enc_of_block {s : State} {b : Block} {d : BitSeq} (hs : s.block = some b) (hd : d.length ≤ lenMax) :
    exec (.enc d) s = .next (s.answer (encResponse d b)) := by
  rw [exec_of_wellFormed (i := .enc d) rfl (decide_eq_true hd), command_of_block hs, commandResponse]

theorem encResponse_of_not_ready {b : Block} (h : b.ready = false) (d : BitSeq) :
    encResponse d b = .error .eNotReady :=
  if_pos h

theorem encResponse_of_length_ne {b : Block} (hb : b.ready = true) {d : BitSeq} (hd : d.length ≠ 6) :
    encResponse d b = .error .eLength := by
  simp [encResponse, encLengthOk, raise, hb, hd]

theorem encResponse_of_length {b : Block} (hb : b.ready = true) {d : BitSeq} (hd : d.length = 6) :
    encResponse d b = .codeword (encodeWord b.g (dataOperand d)) := by
  simp [encResponse, encLengthOk, hb, hd]

/-- Presenting a data word to a ready block answers its codeword. -/
theorem responseTo_enc_elems {s : State} {b : Block} (hs : s.block = some b) (hb : b.ready = true) (d : DataWord) :
    responseTo s (.enc (elems d)) = some (.codeword (encodeWord b.g d)) := by
  have hlen : (elems d).length = 6 := length_elems d
  rw [responseTo, exec_enc_of_block hs (by rw [hlen]; decide), encResponse_of_length hb hlen, dataOperand,
    seqWord_elems]
  rfl

/-- Settles O19: the readiness check comes before the length check (R188). -/
theorem encLengthAndReadinessErrors : Obligations.EncLengthAndReadinessErrors := by
  intro s b d hs hd
  rw [exec_enc_of_block hs hd]
  exact ⟨fun hb hlen => by rw [encResponse_of_length_ne hb hlen], fun hb => by rw [encResponse_of_not_ready hb]⟩

/-- Settles O18: the protected bits are a product with `G`, by columns and by rows, and the last bit is their sum. -/
theorem encAnswersCodeword : Obligations.EncAnswersCodeword := by
  intro s b d hs hb hlen
  have hbit : ∀ i < 6, (dataOperand d).getMsbD i = d.getD i false := fun i hi => by
    rw [dataOperand, getMsbD_seqWord, decide_eq_true hi, Bool.true_and]
  have hle : d.length ≤ lenMax := by rw [hlen]; decide
  refine ⟨encodeWord b.g (dataOperand d), ?_, fun j hj => ?_, ?_, ?_⟩
  · rw [exec_enc_of_block hs hle, encResponse_of_length hb hlen]
  · rw [getMsbD_encodeWord _ _ hj, xorBelow_congr fun i hi => by rw [hbit i hi]]
    simp [xorBelow]
  · rw [firstBits_encodeWord, protectedBits, vecMul_eq_foldl_xor_rows]
    exact List.foldl_ext _ _ _ fun acc i hi => by rw [hbit i (List.mem_range.mp hi)]
  · rw [getMsbD_encodeWord_parity]
    simp [xorBelow]

/-- Settles O20: the answers are the codewords of the data words, which have the seven properties. -/
theorem codewordProperties : Obligations.CodewordProperties := by
  intro s b hs hready hb
  have henc := responseTo_enc_elems hs hready
  refine ⟨fun d c hc => ?_, fun d e c f hc hf => ?_, ?_⟩
  · obtain rfl : encodeWord b.g d = c := by simpa [henc] using hc
    refine ⟨fun j hj => hb.systematic.getMsbD_encodeWord_eq_data d hj, fun t ht => getMsbD_encodeWord _ _ (by omega),
      fun j hj => ?_, xsum_encodeWord b.g d⟩
    rw [firstBits_encodeWord, hb.dot_protectedBits d hj]
  · obtain rfl : encodeWord b.g d = c := by simpa [henc] using hc
    obtain rfl : encodeWord b.g e = f := by simpa [henc] using hf
    refine ⟨by rw [henc, encodeWord_xor], fun hde => ?_⟩
    exact ⟨hb.systematic.encodeWord_injective.ne hde, hb.four_le_distance hde⟩
  · rw [henc, encodeWord_zero]

end Sys2Proof.Machine

/-! Sums, products and flips of whole sequences (spec/00_scope.md R14, R16, R21). -/

namespace Sys2Proof

/-- The sum of a sequence is 1 exactly when it has an odd number of 1s. -/
theorem xsum_eq_true_iff_odd {n : Nat} (s : BitVec n) :
    xsum s = true ↔ ((List.range n).filter fun j => s.getMsbD j).length % 2 = 1 := by
  rw [← List.countP_eq_length_filter, ← toNat_xorBelow, ← xsum_eq]
  cases xsum s <;> simp

/-- `M · wᵗ` is the XOR of the columns of `M` that `w` selects (R154). -/
theorem mulVec_eq_foldl_xor_cols {k n : Nat} (M : Mat k n) (w : BitVec n) :
    mulVec M w = (List.range n).foldl (fun acc j => if w.getMsbD j then acc ^^^ col M j else acc) 0#k :=
  eq_of_elements fun i hi => by
    rw [getMsbD_foldl_xor, getMsbD_mulVec, decide_eq_true hi, Bool.true_and, dot_comm, dot_eq]
    exact xorBelow_congr fun j _ => by rw [getMsbD_col, entry]

theorem eq_mulVec_iff {k n : Nat} (M : Mat k n) (w : BitVec n) (S : BitVec k) :
    S = mulVec M w ↔ ∀ i < k, S.getMsbD i = dot (rowOf M i) w := by
  have hbit : ∀ i < k, (mulVec M w).getMsbD i = dot (rowOf M i) w := fun i hi => by
    rw [getMsbD_mulVec, decide_eq_true hi, Bool.true_and]
  exact ⟨fun h i hi => by rw [h, hbit i hi], fun h => eq_of_elements fun i hi => by rw [h i hi, hbit i hi]⟩

theorem mulVec_eq_zero_iff {k n : Nat} (M : Mat k n) (w : BitVec n) :
    mulVec M w = 0#k ↔ ∀ i < k, dot (rowOf M i) w = false := by
  simp only [eq_comm (b := 0#k), eq_mulVec_iff, BitVec.getMsbD_zero, eq_comm (a := false)]

theorem firstBits_firstBits {k m n : Nat} (hkm : k ≤ m) (s : BitVec n) : firstBits k (firstBits m s) = firstBits k s :=
  eq_of_elements fun j hj => by simp [hj, hj.trans_le hkm]

@[simp] theorem firstBits_xor {n : Nat} (m : Nat) (s t : BitVec n) :
    firstBits m (s ^^^ t) = firstBits m s ^^^ firstBits m t :=
  eq_of_elements fun j hj => by simp [hj]

/-- Flipping a position is adding the error pattern with a 1 there alone. -/
theorem flipAt_eq_xor_unitVec {n : Nat} (p : Nat) (s : BitVec n) : flipAt p s = s ^^^ unitVec n p :=
  eq_of_elements fun j hj => by simp [hj, BEq.comm]

/-- A 1 beyond the first `m` positions is cut off: `unitVec m p` is zero for `m ≤ p`. -/
@[simp] theorem firstBits_unitVec {m n : Nat} (hmn : m ≤ n) (p : Nat) : firstBits m (unitVec n p) = unitVec m p :=
  eq_of_elements fun j hj => by simp [hj, hj.trans_le hmn]

theorem unitVec_of_ge {n p : Nat} (h : n ≤ p) : unitVec n p = 0#n :=
  eq_of_elements fun j hj => by simp [(hj.trans_le h).ne']

@[simp] theorem xsum_unitVec {n p : Nat} (hp : p < n) : xsum (unitVec n p) = true := by
  rw [xsum_eq, xorBelow_single _ p n fun j _ hne => by simp [hne.symm]]
  simp [hp]

theorem elems_concat {n : Nat} (s : BitVec n) (b : Bool) : elems (s.concat b) = elems s ++ [b] := by
  rw [elems, List.range_succ, List.map_append, List.map_singleton, getMsbD_concat_last, elems]
  congr 1
  exact List.map_congr_left fun j hj => getMsbD_concat_of_lt s b (List.mem_range.mp hj)

end Sys2Proof

/-! The conditions computed from a received word (spec/42_decoder.md R152 to R155). -/

namespace Sys2Proof.Machine

section
variable (hp : Row) (rp : Bool)

@[simp] theorem hammingPart_concat : hammingPart (hp.concat rp) = hp :=
  firstBits_concat hp rp

@[simp] theorem receivedParity_concat : receivedParity (hp.concat rp) = rp :=
  getMsbD_concat_last hp rp

@[simp] theorem parityError_concat : parityError (hp.concat rp) = (xsum hp != rp) := by
  rw [parityError, hammingPart_concat, receivedParity_concat]

theorem receivedOperand_append : receivedOperand (elems hp ++ [rp]) = hp.concat rp := by
  rw [← elems_concat, receivedOperand, seqWord_elems]

end

/-- A received word is its protected bits and its parity bit (R152). -/
theorem concat_hammingPart_receivedParity (w : Codeword) : (hammingPart w).concat (receivedParity w) = w := by
  refine eq_of_elements fun j hj => ?_
  obtain hlt | rfl := Nat.lt_succ_iff_lt_or_eq.mp hj
  · rw [getMsbD_concat_of_lt _ _ hlt, hammingPart, getMsbD_firstBits, decide_eq_true hlt, Bool.true_and]
  · exact getMsbD_concat_last _ _

/-- The parity error is the sum of all eleven elements (R153). -/
theorem parityError_eq_xsum (w : Codeword) : parityError w = xsum w := by
  rw [← concat_hammingPart_receivedParity w, parityError_concat, xsum_concat]

theorem synZero_iff (S : Syndrome) : synZero S = true ↔ S = 0#4 :=
  beq_iff_eq

theorem synZero_eq_false_iff (S : Syndrome) : synZero S = false ↔ S ≠ 0#4 :=
  beq_eq_false_iff_ne

/-- Settles O21: the split undoes `concat`, the parity error is the sum of the word, and the syndrome is a product
with `H`, read by rows and by columns. -/
theorem decConditions : Obligations.DecConditions := by
  refine ⟨fun hp rp => ⟨hammingPart_concat hp rp, receivedParity_concat hp rp, receivedOperand_append hp rp⟩,
    fun hp rp => ⟨parityError_concat hp rp, parityError_eq_xsum _, ?_⟩,
    fun H hp => ⟨(eq_mulVec_iff H hp _).mp rfl, ?_, mulVec_eq_foldl_xor_cols H hp⟩⟩
  · rw [parityError_eq_xsum, xsum_eq_true_iff_odd]
  · rw [synZero_iff, syndrome, mulVec_eq_zero_iff]

end Sys2Proof.Machine

/-! The response of `DEC`, one lemma per outcome (spec/42_decoder.md R150, R151, R159 to R162). -/

namespace Sys2Proof.Machine

section
variable {H : Mat 4 10} {T : SynTable 4 4} {w : Codeword}

theorem decodeWord_of_valid (hS : syndrome H (hammingPart w) = 0#4) (hpe : parityError w = false) :
    decodeWord H T w = .decoded (firstBits 6 (hammingPart w)) .valid := by
  simp [decodeWord, (synZero_iff _).mpr hS, hpe]

theorem decodeWord_of_parity_flip (hS : syndrome H (hammingPart w) = 0#4) (hpe : parityError w = true) :
    decodeWord H T w = .decoded (firstBits 6 (hammingPart w)) .corrected := by
  simp [decodeWord, (synZero_iff _).mpr hS, hpe]

theorem decodeWord_of_hit {S : Syndrome} (hS : syndrome H (hammingPart w) = S) (hne : S ≠ 0#4)
    (hpe : parityError w = true) (hhit : (lookup T S).hit = true) :
    decodeWord H T w = .decoded (firstBits 6 (flipAt (lookup T S).pos.toNat (hammingPart w))) .corrected := by
  simp [decodeWord, synLookup, hS, (synZero_eq_false_iff _).mpr hne, hpe, hhit]

theorem decodeWord_of_miss {S : Syndrome} (hS : syndrome H (hammingPart w) = S) (hne : S ≠ 0#4)
    (hpe : parityError w = true) (hmiss : (lookup T S).hit = false) : decodeWord H T w = .uncorrectable := by
  simp [decodeWord, synLookup, hS, (synZero_eq_false_iff _).mpr hne, hpe, hmiss]

theorem decodeWord_of_double (hS : syndrome H (hammingPart w) ≠ 0#4) (hpe : parityError w = false) :
    decodeWord H T w = .uncorrectable := by
  simp [decodeWord, (synZero_eq_false_iff _).mpr hS, hpe]

variable (H T w) in
/-- The five outcomes of a received word, by the conditions computed from it (R156). -/
theorem decodeWord_cases :
    (syndrome H (hammingPart w) = 0#4 ∧ parityError w = false ∧ ∃ d, decodeWord H T w = .decoded d .valid) ∨
    (syndrome H (hammingPart w) = 0#4 ∧ parityError w = true ∧ ∃ d, decodeWord H T w = .decoded d .corrected) ∨
    (syndrome H (hammingPart w) ≠ 0#4 ∧ parityError w = true ∧
      (lookup T (syndrome H (hammingPart w))).hit = true ∧ ∃ d, decodeWord H T w = .decoded d .corrected) ∨
    (syndrome H (hammingPart w) ≠ 0#4 ∧ parityError w = true ∧
      (lookup T (syndrome H (hammingPart w))).hit = false ∧ decodeWord H T w = .uncorrectable) ∨
    (syndrome H (hammingPart w) ≠ 0#4 ∧ parityError w = false ∧ decodeWord H T w = .uncorrectable) := by
  by_cases hS : syndrome H (hammingPart w) = 0#4 <;> cases hpe : parityError w
  · exact .inl ⟨hS, rfl, _, decodeWord_of_valid hS hpe⟩
  · exact .inr (.inl ⟨hS, rfl, _, decodeWord_of_parity_flip hS hpe⟩)
  · exact .inr (.inr (.inr (.inr ⟨hS, rfl, decodeWord_of_double hS hpe⟩)))
  · cases hhit : (lookup T (syndrome H (hammingPart w))).hit
    · exact .inr (.inr (.inr (.inl ⟨hS, rfl, rfl, decodeWord_of_miss rfl hS hpe hhit⟩)))
    · exact .inr (.inr (.inl ⟨hS, rfl, rfl, _, decodeWord_of_hit rfl hS hpe hhit⟩))

/-- `VALID` is answered for a zero syndrome and no parity error, and for nothing else (R159). -/
theorem exists_decodeWord_valid_iff :
    (∃ d, decodeWord H T w = .decoded d .valid) ↔ syndrome H (hammingPart w) = 0#4 ∧ parityError w = false := by
  obtain ⟨hS, hpe, d, hd⟩ | ⟨hS, hpe, d, hd⟩ | ⟨hS, hpe, -, d, hd⟩ | ⟨hS, hpe, -, hd⟩ | ⟨hS, hpe, hd⟩ :=
    decodeWord_cases H T w <;> simp [hS, hpe, hd]

end

theorem exec_dec_of_block {s : State} {b : Block} {r : BitSeq} (hs : s.block = some b) (hr : r.length ≤ lenMax) :
    exec (.dec r) s = .next (s.answer (decResponse r b)) := by
  rw [exec_of_wellFormed (i := .dec r) rfl (decide_eq_true hr), command_of_block hs, commandResponse]

theorem decResponse_of_not_ready {b : Block} (h : b.ready = false) (r : BitSeq) : decResponse r b = .error .eNotReady :=
  if_pos h

theorem decResponse_of_length_ne {b : Block} (hb : b.ready = true) {r : BitSeq} (hr : r.length ≠ 11) :
    decResponse r b = .error .eLength := by
  simp [decResponse, decLengthOk, raise, hb, hr]

theorem decResponse_elems {b : Block} (hb : b.ready = true) (w : Codeword) :
    decResponse (elems w) b = decodeWord b.h b.syn w := by
  simp [decResponse, decLengthOk, receivedOperand, hb]

/-- Presenting a received word to a ready block answers its decoding. -/
theorem exec_dec_elems {s : State} {b : Block} (hs : s.block = some b) (hb : b.ready = true) (w : Codeword) :
    exec (.dec (elems w)) s = .next (s.answer (decodeWord b.h b.syn w)) := by
  rw [exec_dec_of_block hs (by rw [length_elems]; decide), decResponse_elems hb]

theorem responseTo_dec_elems {s : State} {b : Block} (hs : s.block = some b) (hb : b.ready = true) (w : Codeword) :
    responseTo s (.dec (elems w)) = some (decodeWord b.h b.syn w) := by
  rw [responseTo, exec_dec_elems hs hb]
  rfl

/-- Settles O25: the readiness check comes before the length check (R188). -/
theorem decLengthAndReadinessErrors : Obligations.DecLengthAndReadinessErrors := by
  intro s b r hs hr
  rw [exec_dec_of_block hs hr]
  exact ⟨fun hb hlen => by rw [decResponse_of_length_ne hb hlen], fun hb => by rw [decResponse_of_not_ready hb]⟩

/-- Settles O24: the branch is taken before the table is read. -/
theorem decDoubleErrorOutcome : Obligations.DecDoubleErrorOutcome := by
  intro s b hp rp hs hb ⟨i, hi, hdot⟩ hparity
  have hne : syndrome b.h hp ≠ 0#4 := fun h =>
    Bool.false_ne_true (((mulVec_eq_zero_iff b.h hp).mp h i hi).symm.trans hdot)
  rw [← elems_concat, exec_dec_elems hs hb, decodeWord_of_double] <;> simpa

/-- The entry at the packed value of `S` is the one looked up for `S` (R157). -/
theorem getElem_toNat_eq_lookup (T : SynTable 4 4) (S : Syndrome) : T[S.toNat]'S.isLt = lookup T S := rfl

/-- Settles O23: `S` is the syndrome, so the entry at its address is the one `DEC` looks up. -/
theorem decTableLookupOutcomes : Obligations.DecTableLookupOutcomes := by
  intro s b hp rp S hs hb hrows hne hparity
  have hS : syndrome b.h (hammingPart (hp.concat rp)) = S := by
    rw [hammingPart_concat]
    exact ((eq_mulVec_iff b.h hp S).mpr hrows).symm
  have hpe : parityError (hp.concat rp) = true := by simpa using hparity
  rw [getElem_toNat_eq_lookup, ← elems_concat, exec_dec_elems hs hb]
  refine ⟨fun hhit => ⟨firstBits 6 (flipAt (lookup b.syn S).pos.toNat hp), ?_, fun j hj => ?_⟩, fun hmiss => ?_⟩
  · rw [decodeWord_of_hit hS hne hpe hhit, hammingPart_concat]
  · have hj10 : j < 10 := by omega
    simp [hj, hj10, beq_eq_decide]
  · rw [decodeWord_of_miss hS hne hpe hmiss]

end Sys2Proof.Machine

/-! Valid codewords, and a codeword with an error pattern added (spec/42_decoder.md R159, R160, R164). -/

namespace Sys2Proof.Machine

theorem validCodeword_iff_exists_encodeWord (G : Mat 6 10) (w : Codeword) :
    ValidCodeword G w ↔ ∃ d, w = encodeWord G d := by
  constructor
  · rintro ⟨_, ⟨d, rfl⟩, rfl⟩
    exact ⟨d, rfl⟩
  · rintro ⟨d, rfl⟩
    exact ⟨_, inRowSpace_protectedBits G d, rfl⟩

/-- The valid codewords are the words with zero syndrome and no parity error (R159). -/
theorem Block.Built.validCodeword_iff {b : Block} (hb : b.Built) (w : Codeword) :
    ValidCodeword b.g w ↔ syndrome b.h (hammingPart w) = 0#4 ∧ parityError w = false := by
  rw [hb.syndrome_eq_zero_iff]
  constructor
  · rintro ⟨c, hc, rfl⟩
    simpa using hc
  · rintro ⟨hrow, hpe⟩
    have hparity : xsum (hammingPart w) = receivedParity w := by simpa [parityError] using hpe
    exact ⟨hammingPart w, hrow, by rw [hparity, concat_hammingPart_receivedParity]⟩

@[simp] theorem hammingPart_xor (v w : Codeword) : hammingPart (v ^^^ w) = hammingPart v ^^^ hammingPart w :=
  firstBits_xor 10 v w

/-- A flip of the parity position leaves the protected bits: `unitVec 10 10` is zero. -/
@[simp] theorem hammingPart_unitVec (p : Nat) : hammingPart (unitVec 11 p) = unitVec 10 p :=
  firstBits_unitVec (by decide) p

section
variable {b : Block} (hb : b.Built) {c : Codeword} (hc : ValidCodeword b.g c) (e : Codeword)
include hb hc

/-- The syndrome depends on the error pattern alone (R164). -/
theorem Block.Built.syndrome_codeword_xor :
    syndrome b.h (hammingPart (c ^^^ e)) = syndrome b.h (hammingPart e) := by
  have hzero := ((hb.validCodeword_iff c).mp hc).1
  rw [syndrome] at hzero
  rw [hammingPart_xor, syndrome, mulVec_xor, hzero, BitVec.zero_xor, syndrome]

/-- So does the parity error (R164). -/
theorem Block.Built.parityError_codeword_xor : parityError (c ^^^ e) = xsum e := by
  have heven := ((hb.validCodeword_iff c).mp hc).2
  rw [parityError_eq_xsum] at heven
  rw [parityError_eq_xsum, xsum_xor, heven, Bool.false_xor]

end

/-- Settles O30: both are linear in the word, and vanish on a codeword. -/
theorem syndromeAndParityOfAnErrorPattern : Obligations.SyndromeAndParityOfAnErrorPattern := by
  intro b c e hb hc
  rw [hb.syndrome_codeword_xor hc, hb.parityError_codeword_xor hc]
  refine ⟨?_, xsum_eq_true_iff_odd e⟩
  rw [syndrome, mulVec_eq_foldl_xor_cols]
  refine List.foldl_ext _ _ _ fun acc p hp => ?_
  rw [hammingPart, getMsbD_firstBits, decide_eq_true (List.mem_range.mp hp), Bool.true_and]

/-! A codeword with one or two flips -/

theorem hammingPart_flipAt (p : Nat) (w : Codeword) : hammingPart (flipAt p w) = flipAt p (hammingPart w) := by
  rw [flipAt_eq_xor_unitVec, hammingPart_xor, hammingPart_unitVec, flipAt_eq_xor_unitVec]

section
variable {b : Block} (hb : b.Built) {c : Codeword} (hc : ValidCodeword b.g c)
include hb hc

/-- A codeword is decoded as it stands (R159). -/
theorem Block.Built.decodeWord_codeword :
    decodeWord b.h b.syn c = .decoded (firstBits 6 c) .valid := by
  obtain ⟨hS, hpe⟩ := (hb.validCodeword_iff c).mp hc
  rw [decodeWord_of_valid hS hpe, hammingPart, firstBits_firstBits (by decide)]

/-- A flipped protected position is found in the table; a flipped parity bit leaves the syndrome zero (R166). -/
theorem Block.Built.decodeWord_flipAt {i : Nat} (hi : i < 11) :
    decodeWord b.h b.syn (flipAt i c) = .decoded (firstBits 6 c) .corrected := by
  have hS : syndrome b.h (hammingPart (flipAt i c)) = col b.h i := by
    rw [flipAt_eq_xor_unitVec, hb.syndrome_codeword_xor hc, hammingPart_unitVec, syndrome, mulVec_unitVec]
  have hpe : parityError (flipAt i c) = true := by
    rw [flipAt_eq_xor_unitVec, hb.parityError_codeword_xor hc, xsum_unitVec hi]
  have hdata : firstBits 6 (hammingPart c) = firstBits 6 c := firstBits_firstBits (by decide) c
  obtain hlt | rfl := Nat.lt_succ_iff_lt_or_eq.mp hi
  · have hne : col b.h i ≠ 0#4 := hb.table.distinctNonzeroColumns.1 ⟨i, hlt⟩
    have hlook : lookup b.syn (col b.h i) = { hit := true, pos := BitVec.ofNat 4 i } := hb.table.1 ⟨i, hlt⟩
    rw [decodeWord_of_hit hS hne hpe (by rw [hlook]), hlook, toNat_ofNat_index ⟨i, hlt⟩, hammingPart_flipAt,
      flipAt_flipAt, hdata]
  · have hzero : col b.h 10 = 0#4 := by rw [← mulVec_unitVec, unitVec_of_ge (Nat.le_refl 10), mulVec_zero]
    rw [hzero] at hS
    rw [decodeWord_of_parity_flip hS hpe, hammingPart_flipAt, flipAt_eq_xor_unitVec,
      unitVec_of_ge (Nat.le_refl 10), BitVec.xor_zero, hdata]

/-- Two flips leave the parity even, and their columns differ or one of the two is nonzero (R167). -/
theorem Block.Built.decodeWord_two_flips {i j : Nat} (hij : i < j) (hj : j < 11) :
    decodeWord b.h b.syn (flipAt j (flipAt i c)) = .uncorrectable := by
  have hi : i < 10 := by omega
  have hpattern : flipAt j (flipAt i c) = c ^^^ (unitVec 11 i ^^^ unitVec 11 j) := by
    rw [flipAt_eq_xor_unitVec, flipAt_eq_xor_unitVec, BitVec.xor_assoc]
  have hcols := hb.table.distinctNonzeroColumns
  rw [hpattern]
  refine decodeWord_of_double ?_ ?_
  · rw [hb.syndrome_codeword_xor hc, hammingPart_xor, hammingPart_unitVec, hammingPart_unitVec, syndrome]
    obtain hj10 | rfl := Nat.lt_succ_iff_lt_or_eq.mp hj
    · rw [mulVec_xor, mulVec_unitVec, mulVec_unitVec, Ne, BitVec.xor_eq_zero_iff]
      exact fun heq => hij.ne (Fin.mk.inj (hcols.2 ⟨i, hi⟩ ⟨j, hj10⟩ heq))
    · rw [unitVec_of_ge (Nat.le_refl 10), BitVec.xor_zero, mulVec_unitVec]
      exact hcols.1 ⟨i, hi⟩
  · rw [hb.parityError_codeword_xor hc, xsum_xor, xsum_unitVec (hij.trans hj), xsum_unitVec hj, Bool.xor_self]

end

/-- Settles O22: `VALID` needs both conditions, which the valid codewords alone meet. -/
theorem decZeroSyndromeOutcomes : Obligations.DecZeroSyndromeOutcomes := by
  intro s b hs hready
  refine ⟨fun hp rp hrows => ?_, fun hb w => ⟨?_, fun hw => ⟨?_, ?_⟩⟩⟩
  · have hS : syndrome b.h (hammingPart (hp.concat rp)) = 0#4 := by
      rw [hammingPart_concat, syndrome, mulVec_eq_zero_iff]
      exact hrows
    rw [← elems_concat, exec_dec_elems hs hready]
    refine ⟨fun hparity => ?_, fun hparity => ?_⟩
    · rw [decodeWord_of_valid hS (by simpa using hparity), hammingPart_concat]
    · rw [decodeWord_of_parity_flip hS (by simpa using hparity), hammingPart_concat]
  · simp only [responseTo_dec_elems hs hready, Option.some.injEq, exists_decodeWord_valid_iff, hb.validCodeword_iff]
  · rw [responseTo_dec_elems hs hready, hb.decodeWord_codeword hw]
  · rw [responseTo_dec_elems hs hready, hb.decodeWord_flipAt hw (by decide)]

theorem validCodeword_encodeWord (G : Mat 6 10) (d : DataWord) : ValidCodeword G (encodeWord G d) :=
  (validCodeword_iff_exists_encodeWord G _).mpr ⟨d, rfl⟩

theorem Block.Built.firstBits_six_encodeWord {b : Block} (hb : b.Built) (d : DataWord) :
    firstBits 6 (encodeWord b.g d) = d := by
  rw [← firstBits_firstBits (m := 10) (by decide), firstBits_encodeWord, hb.systematic.firstBits_protectedBits]

/-- A flipped codeword tells the data word, by its decoding, and the flipped position. -/
theorem Block.Built.flipAt_encodeWord_inj {b : Block} (hb : b.Built) {d e : DataWord} {i j : Nat} (hi : i < 11)
    (hj : j < 11) (h : flipAt i (encodeWord b.g d) = flipAt j (encodeWord b.g e)) : d = e ∧ i = j := by
  have hdec := congrArg (decodeWord b.h b.syn) h
  rw [hb.decodeWord_flipAt (validCodeword_encodeWord _ d) hi, hb.decodeWord_flipAt (validCodeword_encodeWord _ e) hj,
    hb.firstBits_six_encodeWord, hb.firstBits_six_encodeWord] at hdec
  obtain rfl : d = e := (Response.decoded.inj hdec).1
  rw [flipAt_eq_xor_unitVec, flipAt_eq_xor_unitVec, BitVec.xor_right_inj] at h
  exact ⟨rfl, unitVec_inj hi h⟩

/-- Settles O26: the answers follow from the flips, and an even word is not an odd one. -/
theorem roundTripAndSingleFlipCorrection : Obligations.RoundTripAndSingleFlipCorrection := by
  intro s b hs hready hb
  have henc := responseTo_enc_elems hs hready
  have hdec := responseTo_dec_elems hs hready
  refine ⟨fun d => ⟨encodeWord b.g d, henc d, ?_, fun i hi => ?_⟩, fun d e c f hc hf i hi j hj => ⟨fun heq => ?_, ?_⟩⟩
  · rw [hdec, hb.decodeWord_codeword (validCodeword_encodeWord _ d), hb.firstBits_six_encodeWord]
  · rw [hdec, hb.decodeWord_flipAt (validCodeword_encodeWord _ d) hi, hb.firstBits_six_encodeWord]
  all_goals
    obtain rfl : encodeWord b.g d = c := by simpa [henc] using hc
    obtain rfl : encodeWord b.g e = f := by simpa [henc] using hf
  · have hsum := congrArg xsum heq
    rw [flipAt_eq_xor_unitVec, xsum_xor, xsum_encodeWord, xsum_encodeWord, xsum_unitVec hi] at hsum
    cases hsum
  · exact hb.flipAt_encodeWord_inj hi hj

/-- Settles O27: `Block.Built.decodeWord_two_flips` on the codewords that `ENC` answers. -/
theorem doubleFlipsAreDetected : Obligations.DoubleFlipsAreDetected := by
  intro s b hs hready hb d c hc i j hij hj
  obtain rfl : encodeWord b.g d = c := by simpa [responseTo_enc_elems hs hready] using hc
  rw [responseTo_dec_elems hs hready, hb.decodeWord_two_flips (validCodeword_encodeWord _ d) hij hj]

/-- Settles O31: the zero word is the codeword of 0 for every seed, and the other words are its single flips. -/
theorem seedIndependentDecodes : Obligations.SeedIndependentDecodes := by
  intro s b hs hready hb
  have hzero : ValidCodeword b.g 0#11 := by
    have h := validCodeword_encodeWord b.g 0#6
    rwa [encodeWord_zero] at h
  have hflip : ∀ i < 11, responseTo s (.dec (elems (flipAt i 0#11))) = some (.decoded 0#6 .corrected) := fun i hi => by
    rw [responseTo_dec_elems hs hready, hb.decodeWord_flipAt hzero hi]
    rfl
  refine ⟨?_, hflip 10 (by decide), hflip 6 (by decide), hflip 7 (by decide), hflip 8 (by decide),
    hflip 9 (by decide)⟩
  rw [responseTo_dec_elems hs hready, hb.decodeWord_codeword hzero]
  rfl

end Sys2Proof.Machine

/-! Counting the members of a finite kind that have a property. -/

namespace Sys2Proof

/-- How many members of a finite kind have a property. -/
def numOf {α : Type} [Fintype α] (p : α → Bool) : Nat :=
  (Finset.univ.filter fun a => p a = true).card

section
variable {α β : Type} [Fintype α] [Fintype β]

theorem numOf_eq_sum (p : α → Bool) : numOf p = ∑ a, (p a).toNat := by
  rw [numOf, Finset.card_filter]
  exact Finset.sum_congr rfl fun a _ => by cases p a <;> rfl

theorem numOf_equiv (e : α ≃ β) (p : β → Bool) : numOf p = numOf fun a => p (e a) := by
  rw [numOf_eq_sum, numOf_eq_sum, ← e.sum_comp]

theorem numOf_comp_snd (p : β → Bool) : (numOf fun x : α × β => p x.2) = Fintype.card α * numOf p := by
  simp only [numOf_eq_sum, Fintype.sum_prod_type, Finset.sum_const, Finset.card_univ, smul_eq_mul]

theorem numOf_prod_bool (p : α → Bool → Bool) :
    (numOf fun x : α × Bool => p x.1 x.2) = (numOf fun a => p a true) + numOf fun a => p a false := by
  simp only [numOf_eq_sum, Fintype.sum_prod_type, Fintype.sum_bool, Finset.sum_add_distrib]

theorem numOf_split (p q : α → Bool) : numOf p = (numOf fun a => p a && q a) + numOf fun a => p a && !q a := by
  rw [numOf_eq_sum, numOf_eq_sum, numOf_eq_sum, ← Finset.sum_add_distrib]
  exact Finset.sum_congr rfl fun a _ => by cases p a <;> cases q a <;> rfl

theorem card_bitVec (n : Nat) : Fintype.card (BitVec n) = 2 ^ n := by
  rw [← FinEnum.card_eq_fintypeCard, FinEnum.card_bitVec]

theorem numOf_beq [DecidableEq α] (a : α) : (numOf fun x => x == a) = 1 := by
  simp [numOf, Finset.filter_eq']

theorem numOf_false : (numOf fun _ : α => false) = 0 := by
  simp [numOf]

end

/-- A duplicate-free list of all members counts them. -/
theorem length_filter_eq_numOf {α : Type} [Fintype α] {l : List α} (hl : l.Nodup) (hall : ∀ a, a ∈ l) (p : α → Bool) :
    (l.filter p).length = numOf p := by
  classical
  rw [← List.toFinset_card_of_nodup (hl.filter p), numOf]
  congr 1
  ext a
  simp [hall]

/-- The packed values below `2 ^ n` stand for the sequences of length `n`, each once. -/
theorem length_filter_range_words {n : Nat} (p : BitVec n → Bool) :
    ((List.range (2 ^ n)).filter fun w => p (BitVec.ofNat n w)).length = numOf p := by
  have hmap : ((List.range (2 ^ n)).filter fun w => p (BitVec.ofNat n w)).length =
      (((List.range (2 ^ n)).map (BitVec.ofNat n)).filter p).length := by
    rw [List.filter_map, List.length_map]
    rfl
  rw [hmap]
  refine length_filter_eq_numOf ?_ (fun s => ?_) p
  · refine List.nodup_range.map_on fun v hv w hw h => ?_
    have hmod := congrArg BitVec.toNat h
    rwa [BitVec.toNat_ofNat, BitVec.toNat_ofNat, Nat.mod_eq_of_lt (List.mem_range.mp hv),
      Nat.mod_eq_of_lt (List.mem_range.mp hw)] at hmod
  · exact List.mem_map.mpr ⟨s.toNat, List.mem_range.mpr s.isLt, by simp⟩

end Sys2Proof

namespace Sys2Proof.Machine

theorem countWords_eq_numOf (p : Codeword → Bool) : countWords p = numOf p :=
  length_filter_range_words p

/-- The sixteen addresses stand for the sixteen syndromes. -/
theorem length_filter_addresses (p : Syndrome → Bool) :
    ((List.finRange 16).filter fun a => p (synAddress a)).length = numOf p := by
  rw [length_filter_eq_numOf (List.nodup_finRange 16) List.mem_finRange, numOf_equiv BitVec.equivFin.symm.toEquiv p]
  rfl

end Sys2Proof.Machine

/-! Every protected part is a codeword's plus what its syndrome alone decides (spec/42_decoder.md R163). -/

namespace Sys2Proof.Machine

/-- The protected part whose data bits are 0 and whose check bits are `S`. -/
def checkPart (S : Syndrome) : Row :=
  ofElems 10 fun j => decide (6 ≤ j) && S.getMsbD (j - 6)

theorem firstBits_checkPart (S : Syndrome) : firstBits 6 (checkPart S) = 0#6 :=
  eq_of_elements fun j hj => by simp [checkPart, Nat.not_le.mpr hj]

theorem getMsbD_checkPart (S : Syndrome) (t : Nat) : (checkPart S).getMsbD (6 + t) = S.getMsbD t := by
  by_cases ht : t < 4
  · have ht10 : 6 + t < 10 := by omega
    simp [checkPart, ht10]
  · rw [getMsbD_of_ge S (Nat.le_of_not_lt ht), getMsbD_of_ge _ (by omega)]

/-- The syndrome compares the check bits received with those of the data bits (R33, R154). -/
theorem IsCheckMatrixOf.getMsbD_syndrome {G : Mat 6 10} {H : Mat 4 10} (h : IsCheckMatrixOf G H) (hp : Row) {t : Nat}
    (ht : t < 4) :
    (syndrome H hp).getMsbD t = ((protectedBits G (firstBits 6 hp)).getMsbD (6 + t) ^^ hp.getMsbD (6 + t)) := by
  have ht10 : 6 + t < 10 := by omega
  rw [h.eq_deriveMatrix, syndrome, getMsbD_mulVec, protectedBits, getMsbD_vecMul, decide_eq_true ht,
    decide_eq_true ht10, Bool.true_and, Bool.true_and]
  exact dot_derive_row (k := 6) (r := 4) G ht hp

theorem IsCheckMatrixOf.syndrome_checkPart {G : Mat 6 10} {H : Mat 4 10} (h : IsCheckMatrixOf G H) (S : Syndrome) :
    syndrome H (checkPart S) = S :=
  eq_of_elements fun t ht => by
    rw [h.getMsbD_syndrome _ ht, firstBits_checkPart, protectedBits, vecMul_zero, BitVec.getMsbD_zero,
      Bool.false_xor, getMsbD_checkPart]

section
variable {b : Block} (hb : b.Built)
include hb

theorem Block.Built.syndrome_xor_checkPart (d : DataWord) (S : Syndrome) :
    syndrome b.h (protectedBits b.g d ^^^ checkPart S) = S := by
  have hzero := (hb.syndrome_eq_zero_iff _).mpr (inRowSpace_protectedBits b.g d)
  have hS := hb.check.syndrome_checkPart S
  rw [syndrome] at hzero hS
  rw [syndrome, mulVec_xor, hzero, hS, BitVec.zero_xor]

theorem Block.Built.firstBits_xor_checkPart (d : DataWord) (S : Syndrome) :
    firstBits 6 (protectedBits b.g d ^^^ checkPart S) = d := by
  rw [firstBits_xor, hb.systematic.firstBits_protectedBits, firstBits_checkPart, BitVec.xor_zero]

end

/-- A protected part is known by its data bits and its syndrome: 64 · 16 of them are all 1024. -/
def Block.Built.partsEquivRow {b : Block} (hb : b.Built) : DataWord × Syndrome ≃ Row :=
  Equiv.ofLeftInverseOfCardLE (by simp [card_bitVec]) (fun x => protectedBits b.g x.1 ^^^ checkPart x.2)
    (fun hp => (firstBits 6 hp, syndrome b.h hp)) fun x =>
      Prod.ext (hb.firstBits_xor_checkPart x.1 x.2) (hb.syndrome_xor_checkPart x.1 x.2)

/-- A received word is known by its protected part and by how its parity bit compares with a rule. -/
def rowBoolEquivWord (rule : Row → Bool) : Row × Bool ≃ Codeword where
  toFun x := x.1.concat (rule x.1 ^^ x.2)
  invFun w := (hammingPart w, rule (hammingPart w) ^^ receivedParity w)
  left_inv x := by simp
  right_inv w := by simp [concat_hammingPart_receivedParity]

section
variable {b : Block} (hb : b.Built)
include hb

/-- Each syndrome has 64 protected parts (R163). -/
theorem Block.Built.numOf_rows (q : Syndrome → Bool) : (numOf fun hp => q (syndrome b.h hp)) = 64 * numOf q := by
  calc (numOf fun hp => q (syndrome b.h hp)) = numOf fun x : DataWord × Syndrome => q x.2 := by
        rw [numOf_equiv hb.partsEquivRow]
        exact congrArg numOf (funext fun x => congrArg q (hb.syndrome_xor_checkPart x.1 x.2))
    _ = Fintype.card DataWord * numOf q := numOf_comp_snd q
    _ = 2 ^ 6 * numOf q := by rw [card_bitVec]

/-- Each syndrome and each parity, compared with any rule, has 64 words (R168). -/
theorem Block.Built.countWords_rule (rule : Row → Bool) (q : Syndrome → Bool → Bool) :
    countWords (fun w => q (syndrome b.h (hammingPart w)) (rule (hammingPart w) ^^ receivedParity w)) =
      64 * ((numOf fun S => q S true) + numOf fun S => q S false) := by
  rw [countWords_eq_numOf, numOf_equiv (rowBoolEquivWord rule), Nat.mul_add, ← hb.numOf_rows, ← hb.numOf_rows,
    ← numOf_prod_bool]
  simp [rowBoolEquivWord]

/-- The words with a property that the syndrome and the parity error decide. -/
theorem Block.Built.countWords_of_conditions {p : Codeword → Bool} {m : Nat} (q : Syndrome → Bool → Bool)
    (hpq : ∀ w, p w = q (syndrome b.h (hammingPart w)) (parityError w))
    (hm : 64 * ((numOf fun S => q S true) + numOf fun S => q S false) = m) : countWords p = m := by
  rw [funext hpq, ← hm]
  exact hb.countWords_rule xsum q

theorem Block.Built.countWords_receivedParity (q : Syndrome → Bool → Bool) :
    countWords (fun w => q (syndrome b.h (hammingPart w)) (receivedParity w)) =
      64 * ((numOf fun S => q S true) + numOf fun S => q S false) := by
  simpa using hb.countWords_rule (fun _ => false) q

end

/-! How the sixteen syndromes divide: one is zero, ten are columns of `H` and five are neither. -/

theorem numOf_synZero : numOf synZero = 1 :=
  numOf_beq 0#4

theorem numOf_not_synZero : (numOf fun S => !synZero S) = 15 := by
  decide

section
variable {H : Mat 4 10} {T : SynTable 4 4} (h : IsSyndromeTableOf H T)
include h

theorem IsSyndromeTableOf.numOf_hit : (numOf fun S => (lookup T S).hit) = 10 := by
  rw [← h.length_hits, ← length_filter_addresses]
  rfl

/-- No hit is at address 0. -/
theorem IsSyndromeTableOf.not_synZero_and_hit (S : Syndrome) :
    (!synZero S && (lookup T S).hit) = (lookup T S).hit := by
  cases hz : synZero S
  · rfl
  · rw [(synZero_iff S).mp hz, h.2.2]
    rfl

/-- Five of the fifteen nonzero syndromes are misses (R163). -/
theorem IsSyndromeTableOf.numOf_miss : (numOf fun S => !synZero S && !(lookup T S).hit) = 5 := by
  have hsplit := numOf_split (fun S => !synZero S) fun S => (lookup T S).hit
  simp only [h.not_synZero_and_hit, h.numOf_hit, numOf_not_synZero] at hsplit
  omega

theorem IsSyndromeTableOf.numOf_synZero_or_hit : (numOf fun S => synZero S || (lookup T S).hit) = 11 := by
  have hsplit := numOf_split (fun S => synZero S || (lookup T S).hit) synZero
  have hzero : ∀ S, ((synZero S || (lookup T S).hit) && synZero S) = synZero S := fun S => by
    cases synZero S <;> simp
  have hhit : ∀ S, ((synZero S || (lookup T S).hit) && !synZero S) = (lookup T S).hit := fun S => by
    rw [Bool.and_comm, Bool.and_or_distrib_left, Bool.not_and_self, Bool.false_or, h.not_synZero_and_hit]
  simpa only [hzero, hhit, numOf_synZero, h.numOf_hit] using hsplit

end

/-- The words that take the miss branch (R163, R168). -/
theorem Block.Built.countWords_miss {b : Block} (hb : b.Built) :
    countWords (fun w => !zeroSyndrome b w && parityError w && !tableHit b w) = 320 :=
  hb.countWords_of_conditions (fun S pe => !synZero S && pe && !(lookup b.syn S).hit) (fun _ => rfl) <| by
    simp [hb.table.numOf_miss, numOf_false]

end Sys2Proof.Machine

/-! The census of the received words, and the miss branch (spec/42_decoder.md R163, R168). -/

namespace Sys2Proof.Machine

/-- Settles O28: each count is 64 times a number of syndromes, the three totals by the outcome of each word. -/
theorem decoderCensus : Obligations.DecoderCensus := by
  intro s b hs hready hb
  have hhit := hb.table.numOf_hit
  have hmiss := hb.table.numOf_miss
  have hone := hb.table.not_synZero_and_hit
  refine ⟨hb.countWords_of_conditions (fun S pe => synZero S && !pe) (fun _ => rfl) ?_,
    hb.countWords_of_conditions (fun S pe => synZero S && pe) (fun _ => rfl) ?_,
    hb.countWords_of_conditions (fun S pe => !synZero S && pe && (lookup b.syn S).hit) (fun _ => rfl) ?_,
    hb.countWords_miss,
    hb.countWords_of_conditions (fun S pe => !synZero S && !pe) (fun _ => rfl) ?_,
    hb.countWords_of_conditions (fun S pe => synZero S && !pe) (fun w => ?valid) ?_,
    hb.countWords_of_conditions (fun S pe => pe && (synZero S || (lookup b.syn S).hit)) (fun w => ?corrected) ?_,
    hb.countWords_of_conditions (fun S pe => !synZero S && (!pe || !(lookup b.syn S).hit)) (fun w => ?uncorrectable) ?_,
    fun S rp => ?each⟩
  case each =>
    refine (hb.countWords_receivedParity fun T r => T == S && r == rp).trans ?_
    cases rp <;> simp [numOf_beq, numOf_false]
  case valid | corrected | uncorrectable =>
    rw [responseTo_dec_elems hs hready]
    obtain ⟨hS, hpe, d, hd⟩ | ⟨hS, hpe, d, hd⟩ | ⟨hS, hpe, hl, d, hd⟩ | ⟨hS, hpe, hl, hd⟩ | ⟨hS, hpe, hd⟩ :=
      decodeWord_cases b.h b.syn w <;> simp [synZero, *]
  all_goals
    simp [numOf_synZero, numOf_not_synZero, hb.table.numOf_synZero_or_hit, hhit, hmiss, hone, numOf_false]

/-- Two words at an odd distance of at most two differ by one flip. -/
theorem exists_eq_flipAt_of_odd_of_light {n : Nat} {s t : BitVec n} (hodd : xsum (s ^^^ t) = true)
    (hlight : distance s t ≤ 2) : ∃ i < n, s = flipAt i t := by
  rw [distance_eq_distance_xor_zero] at hlight
  have hne : s ^^^ t ≠ 0#n := by
    intro hzero
    rw [hzero, xsum_zero] at hodd
    cases hodd
  obtain ⟨i, hi, he⟩ | ⟨i, hi, j, hj, -, he⟩ := eq_unitVec_or_xor_of_light hne hlight
  · refine ⟨i, hi, ?_⟩
    rw [flipAt_eq_xor_unitVec, ← he, BitVec.xor_comm s t, ← BitVec.xor_assoc, BitVec.xor_self, BitVec.zero_xor]
  · rw [he, xsum_xor, xsum_unitVec hi, xsum_unitVec hj] at hodd
    cases hodd

/-- Settles O29: the counts are those of the syndromes, and a word that misses is no single flip of a codeword. -/
theorem missBranchIsFarFromCodewords : Obligations.MissBranchIsFarFromCodewords := by
  intro b hb
  refine ⟨fun S => ?_, ?_, hb.countWords_miss, fun w c hz hpe hmiss hc => ?_⟩
  · calc _ = numOf fun hp => syndrome b.h hp == S := length_filter_range_words (n := 10) fun hp => syndrome b.h hp == S
      _ = 64 := by rw [hb.numOf_rows fun T => T == S, numOf_beq]
  · have haddr : ∀ a : Fin 16, (a.val != 0) = !synZero (synAddress a) := by decide
    simp only [haddr, ← lookup_synAddress]
    rw [length_filter_addresses fun S => !synZero S && !(lookup b.syn S).hit, hb.table.numOf_miss]
  · by_contra! hnear
    have hodd : xsum (w ^^^ c) = true := by
      rw [xsum_xor, ← parityError_eq_xsum, ← parityError_eq_xsum, hpe, ((hb.validCodeword_iff c).mp hc).2]
      rfl
    obtain ⟨i, hi, rfl⟩ := exists_eq_flipAt_of_odd_of_light hodd (Nat.le_of_lt_succ hnear)
    have hdec := hb.decodeWord_flipAt hc hi
    rw [decodeWord_of_miss rfl ((synZero_eq_false_iff _).mp hz) hpe hmiss] at hdec
    cases hdec

end Sys2Proof.Machine

/-! The responses of the commands that read the status and the tables (spec/43_host_access.md R170 to R174). -/

namespace Sys2Proof.Machine

section
variable {s : State} {b : Block} (hs : s.block = some b)
include hs

/-- A command the port can carry is answered from the block, and the answer is the only update. -/
theorem exec_of_block {i : Instr} (hi : i.isCommand = true) (hw : i.wellFormed = true) :
    exec i s = .next (s.answer (commandResponse i b)) := by
  rw [exec_of_wellFormed hi hw, command_of_block hs]

theorem responseTo_stat : responseTo s .stat = some (.status b.ready b.cfault) :=
  responseTo_of_block hs rfl

end

section
variable {b : Block} (hb : b.ready = false) (a : Fin 16)
include hb

theorem rdgResponse_of_not_ready : rdgResponse a b = .error .eNotReady :=
  if_pos hb

theorem rdhResponse_of_not_ready : rdhResponse a b = .error .eNotReady :=
  if_pos hb

theorem rdsResponse_of_not_ready : rdsResponse a b = .error .eNotReady :=
  if_pos hb

end

section
variable {b : Block} (hb : b.ready = true) {a : Fin 16}
include hb

theorem rdgResponse_of_index_gt (ha : 5 < a.val) : rdgResponse a b = .error .eIndex := by
  simp [rdgResponse, namesRowOfG, raise, hb, ha]

theorem rdgResponse_of_index_le (ha : a.val ≤ 5) : rdgResponse a b = .row (rowOf b.g a.val) := by
  simp [rdgResponse, namesRowOfG, readG, hb, ha]

theorem rdhResponse_of_index_gt (ha : 3 < a.val) : rdhResponse a b = .error .eIndex := by
  simp [rdhResponse, namesRowOfH, raise, hb, ha]

theorem rdhResponse_of_index_le (ha : a.val ≤ 3) : rdhResponse a b = .row (rowOf b.h a.val) := by
  simp [rdhResponse, namesRowOfH, readH, hb, ha]

variable (a) in
theorem rdsResponse_of_ready : rdsResponse a b = .entry b.syn[a.val] := by
  rw [rdsResponse, if_neg (ne_false_of_eq_true hb), readSyn, lookup_synAddress]

end

section
variable {s : State} {b : Block} (hs : s.block = some b) (hb : b.ready = true) {a : Fin 16}
include hs hb

theorem responseTo_rdg (ha : a.val ≤ 5) : responseTo s (.rdg a) = some (.row (rowOf b.g a.val)) := by
  rw [← rdgResponse_of_index_le hb ha]
  exact responseTo_of_block hs rfl

theorem responseTo_rdh (ha : a.val ≤ 3) : responseTo s (.rdh a) = some (.row (rowOf b.h a.val)) := by
  rw [← rdhResponse_of_index_le hb ha]
  exact responseTo_of_block hs rfl

variable (a) in
theorem responseTo_rds : responseTo s (.rds a) = some (.entry b.syn[a.val]) := by
  rw [← rdsResponse_of_ready hb]
  exact responseTo_of_block hs rfl

end

/-- The three pairs of `ready` and `cfault` that a block in order can hold (R35). -/
theorem Block.Inv.status_cases {b : Block} (h : b.Inv) :
    (b.ready = true ∧ b.cfault = .cNone) ∨ (b.ready = false ∧ b.cfault = .cRank) ∨
    (b.ready = false ∧ b.cfault = .cColumns) := by
  obtain ⟨-, hready⟩ := h
  cases hf : b.cfault with
  | cNone => exact .inl ⟨hready.mpr hf, rfl⟩
  | cRank => exact .inr (.inl ⟨by simpa [hf] using hready, rfl⟩)
  | cColumns => exact .inr (.inr ⟨by simpa [hf] using hready, rfl⟩)

/-- A word of an instruction's row that carries its operand decodes to it (R84). -/
theorem decodeCommand_of_op {w : CmdWord} {i : Instr} {op : BitVec 4} (hop : opField w = op)
    (hrow : Laws.rowOp i = some op) (hoperand : CarriesOperand w i) : decodeCommand w = i :=
  (decodeCommand_eq_iff w i).mpr ⟨hrow.trans (congrArg some hop.symm), hoperand⟩

/-- Row `i` of a systematic matrix starts with row `i` of the identity (R32). -/
theorem IsSystematic.getMsbD_rowOf {k n : Nat} {M : Mat k n} (hM : IsSystematic M) {i j : Nat} (hi : i < k)
    (hj : j < k) : (rowOf M i).getMsbD j = decide (j = i) :=
  (hM i hi j hj).trans (decide_eq_decide.mpr eq_comm)

/-- Settles O12: the response is a constant, and `op` 0 is the row of `NOP`. -/
theorem nopAnswersNone : Obligations.NopAnswersNone :=
  ⟨fun _ _ hs => exec_of_block hs rfl rfl, rfl, fun _ hop => decodeCommand_of_op hop rfl trivial⟩

/-- Settles O13: the response holds the two fields, and the block invariant leaves three pairs of them. -/
theorem statAnswersReadyAndCfault : Obligations.StatAnswersReadyAndCfault := by
  refine ⟨fun s b hs => exec_of_block hs rfl rfl, fun b hb => ?_, rfl, rfl, rfl,
    fun _ hop => decodeCommand_of_op hop rfl trivial⟩
  obtain ⟨hr, hf⟩ | ⟨hr, hf⟩ | ⟨hr, hf⟩ := hb.status_cases <;> rw [hr, hf]
  · exact .inl rfl
  · exact .inr (.inl rfl)
  · exact .inr (.inr rfl)

/-- Settles O14: the readiness check, the index check, then row `idx` of `G`, systematic in a built block. -/
theorem rdgAnswersRowOfG : Obligations.RdgAnswersRowOfG := by
  refine ⟨fun s b a hs => ?_, fun w hop => ⟨indexField w, rfl, decodeCommand_of_op hop rfl rfl⟩⟩
  rw [exec_of_block hs (i := .rdg a) rfl rfl, commandResponse]
  exact ⟨fun hb => by rw [rdgResponse_of_not_ready hb], fun hb ha => by rw [rdgResponse_of_index_gt hb ha],
    fun hb ha => ⟨rowOf b.g a.val, by rw [rdgResponse_of_index_le hb ha], fun _ _ => rfl,
      fun hbuilt _ hj => hbuilt.systematic.getMsbD_rowOf (Nat.lt_succ_of_le ha) hj⟩⟩

/-- Settles O15: the readiness check, the index check, then row `idx` of `H`, whose last columns are the identity in a
built block. -/
theorem rdhAnswersRowOfH : Obligations.RdhAnswersRowOfH := by
  refine ⟨fun s b a hs => ?_, fun w hop => ⟨indexField w, rfl, decodeCommand_of_op hop rfl rfl⟩⟩
  rw [exec_of_block hs (i := .rdh a) rfl rfl, commandResponse]
  exact ⟨fun hb => by rw [rdhResponse_of_not_ready hb], fun hb ha => by rw [rdhResponse_of_index_gt hb ha],
    fun hb ha => ⟨rowOf b.h a.val, by rw [rdhResponse_of_index_le hb ha], fun _ _ => rfl,
      fun hbuilt => (hbuilt.check a.val (Nat.lt_succ_of_le ha)).2⟩⟩

/-- Settles O16: the readiness check, then the entry at `idx`; what a built table holds gives the five. -/
theorem rdsAnswersRomEntry : Obligations.RdsAnswersRomEntry := by
  refine ⟨fun s b a hs => ?_, fun s b hs hb hbuilt => ?_, rfl, rfl,
    fun w hop => ⟨indexField w, rfl, decodeCommand_of_op hop rfl rfl⟩⟩
  · rw [exec_of_block hs (i := .rds a) rfl rfl, commandResponse]
    exact ⟨fun hb => by rw [rdsResponse_of_not_ready hb], fun hb => by rw [rdsResponse_of_ready hb]⟩
  · obtain ⟨-, h0, -, -, -, h8, h4, h2, h1, -⟩ := syndromeTableContents.1 b hbuilt
    have hrds : ∀ (a : Fin 16) {e : SynEntry 4}, b.syn[a.val] = e → responseTo s (.rds a) = some (.entry e) :=
      fun a _ he => he ▸ responseTo_rds hs hb a
    exact ⟨hrds 0 h0, hrds 8 h8, hrds 4 h4, hrds 2 h2, hrds 1 h1⟩

end Sys2Proof.Machine

/-! What the read commands together tell of the block (spec/43_host_access.md R175, R176). -/

namespace Sys2Proof.Machine

/-- Settles O39: `STAT` shows that the other block is ready too, so each read command shows a row or an entry. -/
theorem readCommandsRecoverTheBlock : Obligations.ReadCommandsRecoverTheBlock := by
  intro s t b c hs ht hb hreads hstat
  rw [responseTo_stat hs, responseTo_stat ht, Option.some.injEq, Response.status.injEq] at hstat
  obtain ⟨hready, hcfault⟩ := hstat
  have hc : c.ready = true := hready ▸ hb
  have hg : b.g = c.g := eq_of_rows fun i hi => by
    obtain ⟨hrdg, -, -⟩ := hreads ⟨i, by omega⟩
    rw [responseTo_rdg hs hb (Nat.le_of_lt_succ hi), responseTo_rdg ht hc (Nat.le_of_lt_succ hi)] at hrdg
    exact Response.row.inj (Option.some.inj hrdg)
  have hh : b.h = c.h := eq_of_rows fun j hj => by
    obtain ⟨-, hrdh, -⟩ := hreads ⟨j, by omega⟩
    rw [responseTo_rdh hs hb (Nat.le_of_lt_succ hj), responseTo_rdh ht hc (Nat.le_of_lt_succ hj)] at hrdh
    exact Response.row.inj (Option.some.inj hrdh)
  have hsyn : b.syn = c.syn := Vector.ext fun a ha => by
    obtain ⟨-, -, hrds⟩ := hreads ⟨a, ha⟩
    rw [responseTo_rds hs hb, responseTo_rds ht hc] at hrds
    exact Response.entry.inj (Option.some.inj hrds)
  cases b
  cases c
  exact (Block.mk.injEq ..).mpr ⟨hg, hh, hsyn, hready, hcfault⟩

/-- The rows of `G` and `H` of a built block are orthogonal (R122). -/
theorem Block.Built.dot_rows {b : Block} (hb : b.Built) (i : Nat) {j : Nat} (hj : j < 4) :
    dot (rowOf b.g i) (rowOf b.h j) = false := by
  rw [hb.check.eq_deriveMatrix]
  exact dot_rowOf_deriveMatrix (k := 6) (r := 4) hb.systematic i hj

/-- Settles O60: the rows answered are those of the tables, and the packed bits of column `c` are its address. -/
theorem matrixInvariantsThroughThePort : Obligations.MatrixInvariantsThroughThePort := by
  intro s b hs hb hbuilt
  have hrds := responseTo_rds hs hb
  refine ⟨fun i => rowOf b.g i, fun j => rowOf b.h j,
    fun i => responseTo_rdg hs hb (Nat.le_of_lt_succ i.isLt), fun j => responseTo_rdh hs hb (Nat.le_of_lt_succ j.isLt),
    fun i _ hp => hbuilt.systematic.getMsbD_rowOf i.isLt hp, fun i j => hbuilt.dot_rows i j.isLt,
    fun c a ha => ?_, ?_⟩
  · have haddr : synAddress a = col b.h c := by
      have hpack := pack_syndrome (col b.h c)
      simp only [getMsbD_col] at hpack
      exact BitVec.eq_of_toNat_eq (ha.trans hpack.symm)
    rw [hrds, ← lookup_synAddress, haddr, hbuilt.table.1]
  · simp only [hrds]
    exact hbuilt.table.length_hits

end Sys2Proof.Machine

/-! Every step of a block with state succeeds (spec/60_exceptions.md R199). -/

namespace Sys2Proof.Machine

/-- On a block with state every instruction the interface can present succeeds, and the block still has state. -/
theorem exec_next_of_block {s : State} {b : Block} (hs : s.block = some b) {i : Instr} (hw : i.wellFormed = true) :
    ∃ t b', exec i s = .next t ∧ t.block = some b' := by
  cases i with
  | construct => exact ⟨_, _, rfl, rfl⟩
  | reduce => exact ⟨_, _, runUnit_of_block hs _ _, rfl⟩
  | derive => exact ⟨_, _, runUnit_of_block hs _ _, rfl⟩
  | build => exact ⟨_, _, runUnit_of_block hs _ _, rfl⟩
  | nop | enc | dec | rdg | rdh | rds | stat | reserved7 | reserved8to15 =>
    exact ⟨_, b, exec_of_block hs rfl hw, hs⟩

/-- A host event selects an instruction the interface can present. -/
theorem decodeEvent_wellFormed (e : HostEvent) : (decodeEvent e).wellFormed = true := by
  cases e with
  | reset => rfl
  | command w => exact decodeCommand_wellFormed w

/-- Settles O10: an idle step holds the state, and any other step runs an instruction that succeeds. -/
theorem blockWithStateAlwaysSteps : Obligations.BlockWithStateAlwaysSteps := by
  intro s b hs
  cases hc : s.cstep with
  | reduce => exact ⟨_, _, step_of_reduce hs hc, rfl⟩
  | derive => exact ⟨_, _, step_of_derive hs hc, rfl⟩
  | build => exact ⟨_, _, step_of_build hs hc, rfl⟩
  | done =>
    cases hp : s.port with
    | nil => exact ⟨s, b, step_of_idle hc hp, hs⟩
    | cons e rest =>
      rw [step_of_port hc hp]
      exact exec_next_of_block (s := { s with port := rest }) hs (decodeEvent_wellFormed e)

end Sys2Proof.Machine

/-! Which error a command answers (spec/60_exceptions.md R182 to R188). -/

namespace Sys2Proof.Machine

/-- The checks of R188 in their order: readiness, then the operand, then an answer that is no error. -/
theorem checksInOrder_eq_error_iff {ready operandOk : Bool} {e₁ e : CmdError} {r : Response}
    (hr : r ≠ .error e) :
    (if ready = false then raise .eNotReady else if operandOk = false then raise e₁ else r) = .error e ↔
      (e = .eNotReady ∧ ready = false) ∨ (e = e₁ ∧ ready = true ∧ operandOk = false) := by
  cases ready with
  | false => simp [raise, eq_comm]
  | true =>
    cases operandOk with
    | false => simp [raise, eq_comm]
    | true => simp [hr]

/-- No received word's outcome is a command error (R180). -/
theorem decodeWord_ne_error (H : Mat 4 10) (T : SynTable 4 4) (w : Codeword) (e : CmdError) :
    decodeWord H T w ≠ .error e := by
  obtain ⟨-, -, d, hd⟩ | ⟨-, -, d, hd⟩ | ⟨-, -, -, d, hd⟩ | ⟨-, -, -, hd⟩ | ⟨-, -, hd⟩ := decodeWord_cases H T w <;>
    simp [hd]

section
variable (b : Block) (e : CmdError)

theorem encResponse_eq_error_iff (d : BitSeq) : encResponse d b = .error e ↔
    (e = .eNotReady ∧ b.ready = false) ∨ (e = .eLength ∧ b.ready = true ∧ d.length ≠ 6) := by
  rw [encResponse, checksInOrder_eq_error_iff Response.noConfusion, encLengthOk, beq_eq_false_iff_ne]

theorem decResponse_eq_error_iff (r : BitSeq) : decResponse r b = .error e ↔
    (e = .eNotReady ∧ b.ready = false) ∨ (e = .eLength ∧ b.ready = true ∧ r.length ≠ 11) := by
  rw [decResponse, checksInOrder_eq_error_iff (decodeWord_ne_error _ _ _ e), decLengthOk, beq_eq_false_iff_ne]

theorem rdgResponse_eq_error_iff (a : Fin 16) : rdgResponse a b = .error e ↔
    (e = .eNotReady ∧ b.ready = false) ∨ (e = .eIndex ∧ b.ready = true ∧ 5 < a.val) := by
  rw [rdgResponse, checksInOrder_eq_error_iff Response.noConfusion, namesRowOfG, decide_eq_false_iff_not, Nat.not_le]

theorem rdhResponse_eq_error_iff (a : Fin 16) : rdhResponse a b = .error e ↔
    (e = .eNotReady ∧ b.ready = false) ∨ (e = .eIndex ∧ b.ready = true ∧ 3 < a.val) := by
  rw [rdhResponse, checksInOrder_eq_error_iff Response.noConfusion, namesRowOfH, decide_eq_false_iff_not, Nat.not_le]

theorem rdsResponse_eq_error_iff (a : Fin 16) :
    rdsResponse a b = .error e ↔ e = .eNotReady ∧ b.ready = false := by
  cases hb : b.ready with
  | false => simp [rdsResponse_of_not_ready hb, eq_comm]
  | true => simp [rdsResponse_of_ready hb]

theorem illegalResponse_eq_error_iff : illegalResponse b = .error e ↔ e = .eIllegal := by
  rw [illegalResponse, raise, Response.error.injEq, eq_comm]

end

/-- Settles O32: for each command, `checksInOrder_eq_error_iff` says which of its checks fails first. -/
theorem commandErrorsAndTheirPriority : Obligations.CommandErrorsAndTheirPriority := by
  intro s b i e hs hi hw
  rw [responseTo_of_block hs hi, if_pos hw, Option.some.injEq]
  cases i with
  | enc d => simp [commandResponse, encResponse_eq_error_iff]
  | dec r => simp [commandResponse, decResponse_eq_error_iff]
  | rdg a => simp [commandResponse, rdgResponse_eq_error_iff]
  | rdh a => simp [commandResponse, rdhResponse_eq_error_iff]
  | rds a => simp [commandResponse, rdsResponse_eq_error_iff]
  | reserved7 => simp [commandResponse, illegalResponse_eq_error_iff]
  | reserved8to15 low => simp [commandResponse, illegalResponse_eq_error_iff]
  | nop => simp [commandResponse]
  | stat => simp [commandResponse]
  | construct | reduce | derive | build => cases hi

end Sys2Proof.Machine

/-! The reserved operation codes (spec/30_encoding.md R85, spec/60_exceptions.md R183). -/

namespace Sys2Proof.Machine

/-- A word with operation code 7 to 15 decodes to a reserved instruction: every other row has a smaller code. -/
theorem decodeCommand_reserved {w : CmdWord} (hop : 7 ≤ (opField w).toNat) :
    decodeCommand w = .reserved7 ∨ ∃ low, decodeCommand w = .reserved8to15 low := by
  obtain ⟨hrow, -⟩ := decodeCommand_in_row w
  cases hi : decodeCommand w with
  | reserved7 => exact .inl rfl
  | reserved8to15 low => exact .inr ⟨low, rfl⟩
  | construct | reduce | derive | build =>
    rw [hi] at hrow
    cases hrow
  | nop | enc | dec | rdg | rdh | rds | stat =>
    rw [hi] at hrow
    rw [← Option.some.inj hrow] at hop
    exact absurd hop (by decide)

/-- Settles O17: the response of a reserved instruction is a constant, and codes 7 to 15 are its rows. -/
theorem reservedCodesAnswerIllegal : Obligations.ReservedCodesAnswerIllegal := by
  refine ⟨fun s b hs => ⟨exec_of_block hs rfl rfl, fun _ => exec_of_block hs rfl rfl⟩, fun s b w hs hop => ?_⟩
  obtain hi | ⟨low, hi⟩ := decodeCommand_reserved hop <;> rw [hi]
  · exact exec_of_block hs rfl rfl
  · exact exec_of_block hs rfl rfl

end Sys2Proof.Machine

/-! Reset (spec/70_reset_and_hazards.md R210, R213), and the invariant over every step (spec/10_state.md R35). -/

namespace Sys2Proof.Machine

/-- A failed construction is in order as soon as it holds the code of its fault (R35, R187). -/
theorem fatal_inv (seed : Mat 6 10) {c : CFault} (hc : c ≠ .cNone) : (fatal seed c).Inv := by
  have hready : ¬ (fatal seed c).ready = true := by simp
  exact ⟨fun h => absurd h hready, fun h => absurd h hready,
    fun hnone => absurd ((fatal_cfault seed c).symm.trans hnone) hc⟩

/-- Every construction ends in order: with one of the two faults, or built, ready and without a fault (R126). -/
theorem construct_inv (seed : Mat 6 10) : (construct seed).Inv := by
  obtain ⟨-, h⟩ | ⟨G, -, -, h⟩ | ⟨G, T, -, -, h⟩ := construct_cases seed
  · rw [h]
    exact fatal_inv seed (by decide)
  · rw [h]
    exact fatal_inv seed (by decide)
  · exact ⟨readyConstructionIsBuilt seed, by simp [h]⟩

/-- Settles O47: a step leaves no unit pending, and its block is the one before it or a construction. -/
theorem everyStepKeepsTheInvariant : Obligations.EveryStepKeepsTheInvariant := by
  rintro s t ⟨hdone, hblock⟩ hstep
  obtain ⟨hdone', hsame | hnew⟩ := step_next_of_done hdone hstep
  · exact ⟨hdone', fun b hb => hblock b (hsame.symm.trans hb)⟩
  · refine ⟨hdone', fun b hb => ?_⟩
    cases hnew.symm.trans hb
    exact construct_inv Config.seedG

/-- A reset at the head of a session shows no response, and the rest runs from the construction (R210). -/
theorem session_reset {s : State} (hc : s.cstep = .done) (es : List HostEvent) :
    session s (.reset :: es) = none :: session State.reset es := by
  have hstep : step { s with port := [.reset] } = .next State.reset := step_of_event hc .reset []
  simp only [session, hstep, reset_rsp]

/-- Settles O11: the reset leaves the construction, and the session's one command word decodes to `STAT`. -/
theorem bootThenStatReportsConstruction : Obligations.BootThenStatReportsConstruction := by
  have hstat : decodeCommand 0x600000#24 = .stat := rfl
  have hsession := session_commands reset_block reset_cstep [0x600000#24]
  unfold Obligations.BootThenStatReportsConstruction
  rw [session_reset rfl]
  simpa [hstat, commandResponse] using hsession

end Sys2Proof.Machine

/-! The invariant right after reset (spec/10_state.md R35, R45). -/

namespace Sys2Proof.Machine

/-- Settles O46: the block right after reset is a construction. -/
theorem resetSatisfiesTheInvariant : Obligations.ResetSatisfiesTheInvariant := by
  refine ⟨reset_cstep, fun b hb => ?_⟩
  cases hb
  exact construct_inv Config.seedG

end Sys2Proof.Machine

/-! The `REDUCE` unit as a step of its own (spec/40_construction.md R113, R116). -/

namespace Sys2Proof.Machine

/-- Settles O41: the unit runs `REDUCE` on the seed, and `reduceMatrix` decides between its two endings. -/
theorem reduceUnitWritesG : Obligations.ReduceUnitWritesG := by
  intro s b hb
  refine ⟨fun seed => s.afterUnit seed (reduceUnit seed b) .derive, runUnit_of_block hb _ _,
    fun seed => ⟨afterUnit_port .., afterUnit_rsp .., fun G hG => ?_, fun hG => ?_⟩⟩
  · simp [reduceUnit_of_some hG]
  · simp [reduceUnit_of_none hG]

end Sys2Proof.Machine

/-! A table word placed for fetching (spec/30_encoding.md R80 to R86). -/

namespace Sys2Proof

/-- A unit's two-bit number is read back from the counter it selects (R41). -/
@[simp] theorem CStep.code_ofCode (c : BitVec 2) : (CStep.ofCode c).code = c := by
  revert c
  decide

/-- A counter value that selects an instruction selects the unit of that counter (R86). -/
theorem decode_unit_cases {c : BitVec 2} {i : Instr} (h : decode (.unit c) = .ok i) :
    (i = .reduce ∧ CStep.ofCode c = .reduce) ∨ (i = .derive ∧ CStep.ofCode c = .derive) ∨
      (i = .build ∧ CStep.ofCode c = .build) := by
  cases hc : CStep.ofCode c <;> simp_all [decode]

end Sys2Proof

namespace Sys2Proof.Machine

/-- A table word that decodes is placed as a selection that decodes to the same instruction. -/
theorem exists_selection_of_decodeTableWord {nbits w : Nat} {i : Instr} (h : decodeTableWord nbits w = some i) :
    ∃ sel, decode sel = .ok i ∧ ∀ s : State, s.withFetchWord nbits w = select s sel := by
  unfold decodeTableWord at h
  cases hsel : selectionOfTableWord nbits w with
  | none => simp [hsel] at h
  | some sel =>
    refine ⟨sel, ?_, fun s => by simp [State.withFetchWord, hsel]⟩
    cases hdec : decode sel with
    | error => simp [hsel, hdec, Except.toOption] at h
    | ok j => simpa [hsel, hdec, Except.toOption] using h

section
variable {s : State}

theorem step_select_command (hc : s.cstep = .done) (w : CmdWord) :
    step (select s (.command w)) = exec (decodeCommand w) s := by
  rw [select, ← hc]
  exact step_of_event hc (.command w) s.port

theorem step_select_reset (hc : s.cstep = .done) : step (select s (.rst true)) = exec .construct s := by
  rw [select, ← hc]
  exact step_of_event hc .reset s.port

theorem step_select_unit {c : BitVec 2} {i : Instr} (h : decode (.unit c) = .ok i) :
    step (select s (.unit c)) = exec i { s with cstep := CStep.ofCode c } :=
  step_of_unit (s := select s (.unit c)) (by simpa [select] using h)

end

/-- Settles O9: the word's selection decides the row, and `fetch` finds each selection first where it is placed. -/
theorem placedTableWordRunsNext : Obligations.PlacedTableWordRunsNext := by
  intro s nbits w i hc hi
  obtain ⟨sel, hdec, hplace⟩ := exists_selection_of_decodeTableWord hi
  rw [hplace]
  cases sel with
  | command cmd =>
    cases hdec
    have hcmd := decodeCommand_isCommand cmd
    refine ⟨fun _ => step_select_command hc cmd, ?_, ?_, ?_⟩
    all_goals
      intro h
      rw [h] at hcmd
      cases hcmd
  | rst level =>
    cases level with
    | false => cases hdec
    | true =>
      cases hdec
      exact ⟨fun _ => step_select_reset hc, nofun, nofun, nofun⟩
  | unit c =>
    have hrun := step_select_unit (s := s) hdec
    obtain ⟨rfl, hcs⟩ | ⟨rfl, hcs⟩ | ⟨rfl, hcs⟩ := decode_unit_cases hdec <;> rw [hcs] at hrun
    · exact ⟨nofun, fun _ => hrun, nofun, nofun⟩
    · exact ⟨nofun, nofun, fun _ => hrun, nofun⟩
    · exact ⟨nofun, nofun, nofun, fun _ => hrun⟩

end Sys2Proof.Machine
